-- ==== Sys2Proof/Word.lean ====
section
/-! DEFINITION. The words CORE's registers and unit ports are made of (10_state.md R20). -/

namespace Sys2Proof

/-- A command word, a buffer cell or a character code: 8 bits (R10, R28, R70). -/
abbrev Byte := BitVec 8

/-- A 6-bit slice of a Morton code, one output character (R15). -/
abbrev Digit := BitVec 6

/-- The three bits of one coordinate inside a digit (R81). -/
abbrev Group := BitVec 3

/-- Registers `X` and `Y` (R23). -/
abbrev Grid := BitVec 45

/-- Registers `C1` and `C2`, one Morton code each (R24). -/
abbrev Tier := BitVec 32

/-- An IEEE 754 binary64 bit pattern, registers `LAT` and `LON` (R21, R100). -/
abbrev Pattern := BitVec 64

end Sys2Proof
end

