-- ==== Sys2Proof/Config.lean ====
section
/-! DEFINITION. What is fixed for this hardware (00_scope.md R7) and the one value the spec leaves undefined. -/

namespace Sys2Proof.Config

/-- Capacity of the code buffer in characters (R7, R28). -/
abbrev cap : Nat := 15

/-- What a cell of the code buffer holds after reset (R36). -/
abbrev cellReset : Byte := 0x00

/-- Offset and divisor of the longitude, in degrees (R103, R104). -/
abbrev lonOffset : Nat := 180
@[inherit_doc lonOffset] abbrev lonDivisor : Nat := 90

/-- Offset and divisor of the latitude, in degrees (R103, R104). -/
abbrev latOffset : Nat := 90
@[inherit_doc latOffset] abbrev latDivisor : Nat := 45

/-- The zoom values `LEN` accepts (R7 `ZMIN`, `ZMAX`; R162). -/
abbrev zoomMin : Int := -8
@[inherit_doc zoomMin] abbrev zoomMax : Int := 22

/-- The constant added to the zoom before dividing by 3 (R7 `ZBIAS`). -/
abbrev zoomBias : Int := 8

/-- The pad character `-` (R77). -/
abbrev padChar : Byte := 0x2D

/-- The legacy character `@` and the character `~` it stands for (R77, R141). -/
abbrev legacyChar : Byte := 0x40
@[inherit_doc legacyChar] abbrev legacyTarget : Byte := 0x7E

/-- DESIGN CHOICE (log entry 6), safe: `slice` is not defined for a digit index of 10 or more (R164); the digit it
gives there is this uninterpreted function of its arguments, so no claim can rest on its value. `EMIT` meets it
only with `ND > 10`, which no run reaches (R25). -/
opaque sliceBeyond : Tier → Tier → Nat → Digit

end Sys2Proof.Config
end

