-- ==== Sys2Proof/Syntax.lean ====
section
/-! DEFINITION. The 12 commands, the fields of a command word, and the host actions CORE answers to. -/

namespace Sys2Proof

/-- The commands, one constructor per row of the command table (30_encoding.md R71). No command has an operand of any
kind (R72). -/
inductive Instr where
  /-- quantize (R107) -/
  | qnt
  /-- de-quantize (R110) -/
  | dqn
  /-- Morton pair (R126) -/
  | mrt
  /-- encode short code, macro (R170) -/
  | enc
  /-- digit and pad counts (R162) -/
  | len
  /-- encoder initialise (R163) -/
  | ein
  /-- emit one digit (R166) -/
  | emit
  /-- emit one pad character (R168) -/
  | padc
  /-- decode short code, macro (R198) -/
  | dec
  /-- decoder initialise (R190) -/
  | din
  /-- accumulate one character (R192) -/
  | acc
  /-- zoom adjust from pads (R196) -/
  | zadj
deriving DecidableEq, Repr

/-- The two fields of a command word in its one format `C8` (R70). -/
structure CommandFields where
  /-- bits 7:4, the unit that performs the command -/
  unit : BitVec 4
  /-- bits 3:0, the function within the unit -/
  fn : BitVec 4
deriving DecidableEq, Repr

/-- The fields of a command word (R70). -/
def CommandFields.ofWord (w : Byte) : CommandFields := ⟨w.extractLsb' 4 4, w.extractLsb' 0 4⟩

/-- What the host may read: every register of 10_state.md R20, every buffer cell, and `STATUS` (R235). -/
inductive HostReg where
  | lat | lon | zoom | x | y | c1 | c2 | nd | np | i | clen
  | cbuf (k : Fin 15)
  | status
deriving DecidableEq, Repr

/-- What the host may do, row by row of 60_exceptions.md R235. There is no action that writes `X`, `Y`, `C1`, `C2`,
`ND`, `NP`, `I` or `STATUS`, and an index past the buffer cannot be written down (R28). -/
inductive HostAction where
  | writeLat (b : Pattern)
  | writeLon (b : Pattern)
  | writeZoom (z : Byte)
  | writeClen (n : BitVec 4)
  | writeCbuf (k : Fin 15) (c : Byte)
  | read (r : HostReg)
  /-- issue one command word, legal or not -/
  | command (w : Byte)
  | reset
deriving DecidableEq, Repr

end Sys2Proof
end

