-- ==== Sys2Proof/WellFormed.lean ====
section
/-! DEFINITION. Which command words name a command, said by fields and not by the list of words, and which strings can
be presented to CORE. A command itself has no operand, so every `Instr` is well formed (30_encoding.md R72). -/

namespace Sys2Proof

/-- A word names a command when its unit has commands (1, 2, 4 or 5; unit 3 has none of its own) and its function
number is below that unit's number of commands (R70, R71, R73). -/
def CommandFields.wellFormed (f : CommandFields) : Bool :=
  match f.unit.toNat with
  | 1 => f.fn.toNat < 2
  | 2 => f.fn.toNat < 1
  | 4 => f.fn.toNat < 5
  | 5 => f.fn.toNat < 4
  | _ => false

/-- A string longer than the buffer cannot be presented to CORE (R28; 93_implementation_defined.md U14). -/
def presentable (str : List Byte) : Bool := str.length ≤ Config.cap

end Sys2Proof
end

