-- ==== Sys2Proof/Decode.lean ====
section
/-! DEFINITION. The command decoder and encoder (30_encoding.md R70 to R74). -/

namespace Sys2Proof

/-- One row of the command table: a word `w` selects it when `w &&& mask = pattern` (R71). -/
structure CommandRow where
  pattern : Byte
  mask : Byte
  instr : Instr
deriving DecidableEq, Repr

/-- Why a word is no command. -/
inductive DecodeError where
  /-- one of the 244 words that name no command (R73) -/
  | illegalCommand (w : Byte)
deriving DecidableEq, Repr

/-- The 12 commands and their words; the whole word is matched (R71). -/
def commandTable : List CommandRow :=
  [⟨0x10, 0xFF, .qnt⟩, ⟨0x11, 0xFF, .dqn⟩, ⟨0x20, 0xFF, .mrt⟩, ⟨0x40, 0xFF, .enc⟩,
   ⟨0x41, 0xFF, .len⟩, ⟨0x42, 0xFF, .ein⟩, ⟨0x43, 0xFF, .emit⟩, ⟨0x44, 0xFF, .padc⟩,
   ⟨0x50, 0xFF, .dec⟩, ⟨0x51, 0xFF, .din⟩, ⟨0x52, 0xFF, .acc⟩, ⟨0x53, 0xFF, .zadj⟩]

/-- The command a word names, or its rejection by name (R71, R73). -/
def decode (w : Byte) : Except DecodeError Instr :=
  match commandTable.find? fun r => w &&& r.mask == r.pattern with
  | some r => .ok r.instr
  | none => .error (.illegalCommand w)

/-- The word of a command (R71). -/
def encode : Instr → Byte
  | .qnt => 0x10
  | .dqn => 0x11
  | .mrt => 0x20
  | .enc => 0x40
  | .len => 0x41
  | .ein => 0x42
  | .emit => 0x43
  | .padc => 0x44
  | .dec => 0x50
  | .din => 0x51
  | .acc => 0x52
  | .zadj => 0x53

/-- The one byte of a command whose bits are `w`; bits above `nbits` are 0, and a command is 8 bits long (R70). -/
def wordOfBits (nbits w : Nat) : Byte := BitVec.ofNat 8 (w % 2 ^ nbits)

/-- The command the decoder reads from a table row's bits. -/
def decodeTableWord (nbits w : Nat) : Option Instr :=
  match decode (wordOfBits nbits w) with
  | .ok i => some i
  | .error _ => none

end Sys2Proof
end

