-- ==== Sys2Proof/Machine/State.lean ====
section
/-! DEFINITION. The architectural state of CORE (10_state.md R20), its reset value (R36), and the reasons a step can
stop. -/

namespace Sys2Proof.Machine

/-- The code buffer as (index, byte) pairs in one canonical form: indices strictly rising and below 15, no entry
equal to what an unlisted cell reads as (`Memory.wf` of Ops.lean; log entry 4). -/
abbrev Memory := List Host.Cell

/-- The four faults the spec gives CORE (60_exceptions.md R221 to R224). Raising one is an effect on `ERR`, not a stop
of the model. -/
inductive FaultCode where
  /-- `E_ILLCMD`: the word is no command (R221) -/
  | illCmd
  /-- `E_NONFINITE`: a coordinate has no integer image (R222) -/
  | nonFinite
  /-- `E_ZOOM`: the zoom is outside -8..22 (R223) -/
  | zoom
  /-- `E_SEQ`: the encoder's sequence did not call for this step (R224) -/
  | seq
deriving DecidableEq, Repr

/-- All of CORE's state (R20), and `host`, the model's own field: the host actions still to come (log entry 1). -/
structure State where
  lat : Pattern
  lon : Pattern
  zoom : BitVec 8
  x : Grid
  y : Grid
  c1 : Tier
  c2 : Tier
  nd : BitVec 4
  np : BitVec 2
  i : BitVec 4
  clen : BitVec 4
  cbuf : Memory
  stop : Bool
  err : BitVec 3
  host : List HostAction
deriving DecidableEq, Repr

/-- Why the model stops with a fault. The spec's own faults are not here: they are next states (`FaultCode`). -/
inductive Fault where
  /-- An access to a cell the buffer does not have (index 15 is not an address, R50). Raised by `memRead` and
  `memWrite`. Safe: the model stops where the spec gives no cell. No run reaches it (R56; log entry 5). -/
  | noSuchCell
deriving DecidableEq, Repr

/-- Why the model has no meaning for an instruction. -/
inductive Refusal where
  /-- The instruction is not modelled. Raised by no arm of `exec`: every command has its meaning. Safe. -/
  | notModelled (mnemonic : String)
deriving DecidableEq, Repr

/-- The outcome of a command or a step. -/
abbrev Result := Host.Outcome State Fault Refusal

/-- Right after reset every bit of state is zero (R36, R250). The host has no action pending (log entry 1). -/
def State.reset : State where
  lat := 0
  lon := 0
  zoom := 0
  x := 0
  y := 0
  c1 := 0
  c2 := 0
  nd := 0
  np := 0
  i := 0
  clen := 0
  cbuf := []
  stop := false
  err := 0
  host := []

end Sys2Proof.Machine
end

