-- ==== Sys2Proof/Machine/Flags.lean ====
section
/-! DEFINITION. The two fields of `STATUS`: the flag `STOP` (10_state.md R30) and the fault code `ERR` (R31). -/

namespace Sys2Proof.Machine

/-- The code a fault leaves in `ERR` (R31, R221 to R224). -/
def FaultCode.code : FaultCode → BitVec 3
  | .illCmd => 1
  | .nonFinite => 2
  | .zoom => 3
  | .seq => 4

/-- `STATUS` as the host reads it: bit 3 is `STOP`, bits 2..0 are `ERR` (R29). -/
def statusWord (s : State) : BitVec 4 := BitVec.ofBool s.stop ++ s.err

/-- CORE is not in the faulted state (R226). -/
def running (s : State) : Bool := s.err == 0

end Sys2Proof.Machine
end

