-- ==== Sys2Proof/Machine/Ops.lean ====
section
/-! DEFINITION. The named operations the commands are made of: the code buffer, register writes, raising a fault,
the faulted core, and the sequencing of macro commands. -/

namespace Sys2Proof.Machine

/-! ### The code buffer (20_memory.md R50 to R58) -/

/-- The byte of cell `k`; an unlisted cell reads as its reset contents (R36; log entry 4). -/
def Memory.cellAt : Memory → Nat → Byte
  | [], _ => Config.cellReset
  | (a, v) :: m, k => if a = k then v else cellAt m k

/-- The buffer with `v` in cell `k`, in canonical form again. -/
def Memory.put : Memory → Nat → Byte → Memory
  | [], k, v => if v = Config.cellReset then [] else [(k, v)]
  | (a, w) :: m, k, v =>
    if k < a then (if v = Config.cellReset then (a, w) :: m else (k, v) :: (a, w) :: m)
    else if k = a then (if v = Config.cellReset then m else (k, v) :: m)
    else (a, w) :: put m k v

/-- Canonical form from index `lo` on. -/
def Memory.wfFrom : Nat → Memory → Bool
  | _, [] => true
  | lo, (a, v) :: m => lo ≤ a && a < Config.cap && v != Config.cellReset && wfFrom (a + 1) m

/-- The canonical form: indices strictly rising and below 15, no entry holding an unlisted cell's byte. -/
def Memory.wf (m : Memory) : Bool := Memory.wfFrom 0 m

/-- `MemRead(k, 1)` (00_scope.md R12); index 15 and above are no cells (R50). -/
def memRead (k : Nat) (s : State) (use : Byte → Result) : Result :=
  if k < Config.cap then use (s.cbuf.cellAt k) else .fault .noSuchCell

/-- The state with `v` in buffer cell `k`. -/
def State.withCell (s : State) (k : Nat) (v : Byte) : State := { s with cbuf := s.cbuf.put k v }

/-- `MemWrite(k, 1, v)` (R12), and then `next` on the state that holds it. -/
def memWrite (k : Nat) (v : Byte) (s : State) (next : State → Result) : Result :=
  if k < Config.cap then next (s.withCell k v) else .fault .noSuchCell

/-! ### Register writes: a write changes no other register (10_state.md R35) -/

/-- `LON` and `LAT` written together. -/
def State.withCoord (s : State) (lon lat : Pattern) : State := { s with lon := lon, lat := lat }

/-- `X` and `Y` written together. -/
def State.withPoint (s : State) (x y : Grid) : State := { s with x := x, y := y }

/-- `C1` and `C2` written together. -/
def State.withTiers (s : State) (c1 c2 : Tier) : State := { s with c1 := c1, c2 := c2 }

/-- `ND` and `NP` written together. -/
def State.withCounts (s : State) (nd : BitVec 4) (np : BitVec 2) : State := { s with nd := nd, np := np }

/-- `ZOOM` written. -/
def State.withZoom (s : State) (z : BitVec 8) : State := { s with zoom := z }

/-- `I` written. -/
def State.withIndex (s : State) (i : BitVec 4) : State := { s with i := i }

/-- `CLEN` written. -/
def State.withLength (s : State) (n : BitVec 4) : State := { s with clen := n }

/-- `STOP` written (R30). -/
def State.withStop (s : State) (b : Bool) : State := { s with stop := b }

/-- `ERR` written (R31). -/
def State.withErr (s : State) (e : BitVec 3) : State := { s with err := e }

/-- The host's pending actions, the model's own field, replaced. -/
def State.withHost (s : State) (as : List HostAction) : State := { s with host := as }

/-! ### Faults and reset (60_exceptions.md R225, R226; 70_reset_and_hazards.md R250) -/

/-- `raise <Fault>`: `ERR` takes the code if it was 0, and nothing else changes (R225). -/
def raise (f : FaultCode) (s : State) : State := if s.err = 0 then s.withErr f.code else s

/-- Reset: every bit of CORE's state takes its reset value; what the host will do next is not CORE's (log entry 3). -/
def resetCore (s : State) : State := State.reset.withHost s.host

/-- A command acts only while `ERR` is 0; on a faulted core it is accepted and does nothing (R226). -/
def whenRunning (s : State) (act : State → Result) : Result := if s.err = 0 then act s else .next s

/-! ### Macro commands (R227) -/

/-- The next step of a macro command: it runs on the state the step before it left, unless that step raised a fault,
which ends the macro command with the earlier steps' effects kept (R227). -/
def andThen (r : Result) (next : State → Result) : Result :=
  match r with
  | .next s => if s.err = 0 then next s else .next s
  | .fault f => .fault f
  | .refused f => .refused f

/-- `while cond: body` of a macro command, at most `fuel` turns; each loop is given more fuel than it has turns
(R193, R259). -/
def repeatWhile : Nat → (State → Bool) → (State → Result) → State → Result
  | 0, _, _, s => .next s
  | fuel + 1, cond, body, s =>
    if cond s then andThen (body s) (repeatWhile fuel cond body) else .next s

end Sys2Proof.Machine
end

