-- ==== Sys2Proof/Machine/Alphabet.lean ====
section
/-! DEFINITION. The alphabet codec unit: the ROM and the functions `enc_digit`, `norm_char`, `dec_char`
(30_encoding.md R76, 43_alphabet.md). It has no command of its own. -/

namespace Sys2Proof.Machine

/-- The 64 codes of the alphabet ROM, the four columns of the table of R76. -/
def alphabetRom : List Byte :=
  [0x41, 0x42, 0x43, 0x44, 0x45, 0x46, 0x47, 0x48, 0x49, 0x4A, 0x4B, 0x4C, 0x4D, 0x4E, 0x4F, 0x50] ++
  [0x51, 0x52, 0x53, 0x54, 0x55, 0x56, 0x57, 0x58, 0x59, 0x5A, 0x61, 0x62, 0x63, 0x64, 0x65, 0x66] ++
  [0x67, 0x68, 0x69, 0x6A, 0x6B, 0x6C, 0x6D, 0x6E, 0x6F, 0x70, 0x71, 0x72, 0x73, 0x74, 0x75, 0x76] ++
  [0x77, 0x78, 0x79, 0x7A, 0x30, 0x31, 0x32, 0x33, 0x34, 0x35, 0x36, 0x37, 0x38, 0x39, 0x5F, 0x7E]

/-- `RomRead(d)` (00_scope.md R12). The ROM has 64 entries, so the default is never taken. -/
def romRead (d : Digit) : Byte := alphabetRom.getD d.toNat 0

/-- `enc_digit(d)` (R140). -/
def encDigit (d : Digit) : Byte := romRead d

/-- `norm_char(c)`: `@` stands for `~` (R141). -/
def normChar (c : Byte) : Byte := if c = Config.legacyChar then Config.legacyTarget else c

/-- `dec_char(c)`: the reverse lookup in its closed form; `none` is `NOTFOUND` (R143, R144). -/
def decChar (c : Byte) : Option Digit :=
  if 0x41 ≤ c.toNat ∧ c.toNat ≤ 0x5A then some (BitVec.ofNat 6 (c.toNat - 0x41))
  else if 0x61 ≤ c.toNat ∧ c.toNat ≤ 0x7A then some (BitVec.ofNat 6 (c.toNat - 0x61 + 26))
  else if 0x30 ≤ c.toNat ∧ c.toNat ≤ 0x39 then some (BitVec.ofNat 6 (c.toNat - 0x30 + 52))
  else if c = 0x5F then some 62
  else if c = 0x7E then some 63
  else none

/-- The digit of a buffer byte as the decoder reads it: `dec_char(norm_char(c))` (R142). -/
def charDigit (c : Byte) : Option Digit := decChar (normChar c)

end Sys2Proof.Machine
end

