-- ==== Sys2Proof/Machine/Operands.lean ====
section
/-! DEFINITION. The operand forms: which field of which register a command reads, and how (30_encoding.md R72). -/

namespace Sys2Proof.Machine

/-- `sint(ZOOM)`: the zoom as a signed integer (00_scope.md R9, 10_state.md R22). -/
def zoomLevel (s : State) : Int := s.zoom.toInt

/-- Bits 31..17 of a grid register, zero-extended to the interleaver's port (42_interleaver.md R126). -/
def hiOperand (v : Grid) : BitVec 16 := (v.extractLsb' 17 15).setWidth 16

/-- Bits 16..2 of a grid register, zero-extended to the interleaver's port (R126). -/
def loOperand (v : Grid) : BitVec 16 := (v.extractLsb' 2 15).setWidth 16

/-- Digits are still owed: `I < ND` (44_encoder.md R166, R170). -/
def digitsOwed (s : State) : Bool := s.i.toNat < s.nd.toNat

/-- Characters are still owed: `I < ND + NP`, compared on integers (R168, R170). -/
def charsOwed (s : State) : Bool := s.i.toNat < s.nd.toNat + s.np.toNat

/-- There is a character at index `I + ahead` of the string, compared on integers (45_decoder.md R195, R196). -/
def hasCharAt (s : State) (ahead : Nat) : Bool := s.i.toNat + ahead < s.clen.toNat

/-- The decode loop goes on: `STOP = 0` (R198). -/
def notStopped (s : State) : Bool := !s.stop

end Sys2Proof.Machine
end

