-- ==== Sys2Proof/Machine/Interleaver.lean ====
section
/-! DEFINITION. The interleaver unit: `interleave`, `deinterleave6` and command `MRT` (42_interleaver.md). -/

namespace Sys2Proof.Machine

/-- `spread16(a)` by its normative bit mapping: bit `2k` of the result is bit `k` of `a`, odd bits are 0 (R121). -/
def spread16 (a : BitVec 16) : Tier := BitVec.ofFnLE fun j => j.val % 2 == 0 && a.getLsbD (j.val / 2)

/-- One turn of the shift-OR-mask sequence (R121). -/
def swarStep (w : Tier) (shift : Nat) (mask : Tier) : Tier := (w ||| (w <<< shift)) &&& mask

/-- `spread16` by the shift-OR-mask sequence, one implementation of the mapping (R121). -/
def spread16Swar (a : BitVec 16) : Tier :=
  swarStep (swarStep (swarStep (swarStep (a.setWidth 32) 8 0x00ff00ff) 4 0x0f0f0f0f) 2 0x33333333) 1 0x55555555

/-- `interleave(a, b)`: `a`, the longitude side, takes the odd bits and `b` the even ones (R78, R122). -/
def interleave (a b : BitVec 16) : Tier := (spread16 a <<< 1) ||| spread16 b

/-- `deinterleave6(d)`: the longitude group from the odd bits and the latitude group from the even bits (R81, R125). -/
def deinterleave6 (d : Digit) : Group × Group :=
  (BitVec.ofFnLE fun k => d.getLsbD (2 * k.val + 1), BitVec.ofFnLE fun k => d.getLsbD (2 * k.val))

/-- `MRT` (R126). -/
def execMrt (s : State) : Result :=
  whenRunning s fun s =>
    .next (s.withTiers (interleave (hiOperand s.x) (hiOperand s.y)) (interleave (loOperand s.x) (loOperand s.y)))

end Sys2Proof.Machine
end

