-- ==== Sys2Proof/Machine/Binary64.lean ====
section
/-! DEFINITION. The floating-point groundwork of the quantizer (41_quantizer.md R100 to R102), in integer arithmetic.
Every finite binary64 value is a whole multiple of `2^-1074`; a value is held here as that multiple, an `Int` that
counts units of `2^-1074` ("scaled"). -/

namespace Sys2Proof.Machine

/-- The scaled value of 1: `2^1074` units of `2^-1074`. Irreducible, so that no proof expands the number by accident. -/
@[irreducible] def unitsPerOne : Nat := 2 ^ 1074

/-- Exponent field, bits 62..52 (R100). -/
def expField (b : Pattern) : Nat := (b.extractLsb' 52 11).toNat

/-- Fraction field, bits 51..0 (R100). -/
def fracField (b : Pattern) : Nat := (b.extractLsb' 0 52).toNat

/-- Neither an infinity nor a NaN (R100). -/
def isFinite (b : Pattern) : Bool := expField b != 0x7FF

/-- The magnitude of a finite pattern, scaled: `f` for zero and subnormals, `(2^52 + f) * 2^(e-1)` otherwise (R100). -/
def scaledMag (b : Pattern) : Nat :=
  if expField b = 0 then fracField b else (2 ^ 52 + fracField b) * 2 ^ (expField b - 1)

/-- `val(b)` of a finite pattern, scaled (R100). -/
def scaledVal (b : Pattern) : Int := if b.msb then -(scaledMag b : Int) else scaledMag b

/-- The scaled magnitude from which a rounding overflows: `2^1024 - 2^970` (R101). -/
@[irreducible] def overflowMag : Nat := (2 ^ 1024 - 2 ^ 970) * unitsPerOne

/-- The quotient `n / d` rounded to the nearest natural number, ties to even. -/
def nearestEven (n d : Nat) : Nat :=
  let q := n / d
  let r := n % d
  if 2 * r < d then q
  else if d < 2 * r then q + 1
  else if q % 2 = 0 then q else q + 1

/-- The scaled magnitude `num / den` rounded to a 53-bit significand (fewer in the subnormal range), ties to the even
significand (R101). The spacing of the binade that holds it is `2^(log2 - 52)` units, and 1 unit below that. -/
def roundMag (num den : Nat) : Nat :=
  let spacing := 2 ^ ((num / den).log2 - 52)
  nearestEven num (den * spacing) * spacing

/-- `RN(q)` of the scaled rational `num / den`: the nearest binary64 value, ties to even, or `none` for `OVERFLOW`
(R101). -/
def roundNearest (num : Int) (den : Nat) : Option Int :=
  if den * overflowMag ≤ num.natAbs then none
  else if num < 0 then some (-(roundMag num.natAbs den : Int))
  else some (roundMag num.natAbs den)

/-- `rhaz(v)` of the rational `num / den`: the nearest integer, ties away from zero (R102). -/
def roundHalfAway (num : Int) (den : Nat) : Int :=
  if 0 ≤ num then (2 * num + den) / (2 * den) else -((2 * -num + den) / (2 * den))

/-- The magnitude bits of a scaled value that is a binary64 value. On any other value it drops the bits that do not fit
(DESIGN CHOICE, log entry 8; no command calls it there, R111). -/
def magPattern (m : Nat) : Pattern :=
  if m.log2 < 52 then BitVec.ofNat 64 m
  else BitVec.ofNat 64 ((m.log2 - 51) * 2 ^ 52 + (m / 2 ^ (m.log2 - 52) - 2 ^ 52))

/-- The binary64 pattern of a scaled value that is a binary64 value; 0 gives positive zero (R110, R111). -/
def patternOf (v : Int) : Pattern :=
  if v < 0 then 0x8000000000000000 ||| magPattern v.natAbs else magPattern v.natAbs

end Sys2Proof.Machine
end

