-- ==== Sys2Proof/Machine/Quantizer.lean ====
section
/-! DEFINITION. The quantizer unit: commands `QNT` and `DQN` (41_quantizer.md). -/

namespace Sys2Proof.Machine

/-- The first operation of `quant1`: `t = RN(val(b) + off)`, scaled (R104). -/
def quantSum (b : Pattern) (off : Nat) : Option Int := roundNearest (scaledVal b + off * unitsPerOne) 1

/-- The integer `r` of `quant1`, before its reduction: `((val(b) + off) * 2^30) / div`, left to right, each operation
correctly rounded, then rounded to an integer; `none` is `NONFINITE` (R104, R105). -/
def quantInt (b : Pattern) (off div : Nat) : Option Int :=
  if isFinite b then
    (quantSum b off).bind fun t =>
    (roundNearest (t * 2 ^ 30) 1).bind fun u =>
    (roundNearest u div).map fun v => roundHalfAway v unitsPerOne
  else none

/-- `quant1(b, off, div)`: that integer modulo `2^32` (R104, R106). -/
def quant1 (b : Pattern) (off div : Nat) : Option (BitVec 32) := (quantInt b off div).map (BitVec.ofInt 32)

/-- The longitude's grid value. -/
def quantLon (s : State) : Option (BitVec 32) := quant1 s.lon Config.lonOffset Config.lonDivisor

/-- The latitude's grid value. -/
def quantLat (s : State) : Option (BitVec 32) := quant1 s.lat Config.latOffset Config.latDivisor

/-- `QNT` (R107): both coordinates or neither; `E_NONFINITE` when either has no grid value. -/
def execQnt (s : State) : Result :=
  whenRunning s fun s =>
    match quantLon s, quantLat s with
    | some qx, some qy => .next (s.withPoint (qx.setWidth 45) (qy.setWidth 45))
    | _, _ => .next (raise .nonFinite s)

/-- `v * 2^(2 - 3n) * div - off`, scaled (R110). With `n` at most 15 the exponent `1076 - 3n` is positive, so the
product is a whole number of units. -/
def dequant (v : Grid) (n off div : Nat) : Int := v.toNat * 2 ^ (1076 - 3 * n) * div - off * unitsPerOne

/-- `DQN` (R110). -/
def execDqn (s : State) : Result :=
  whenRunning s fun s =>
    .next (s.withCoord
      (patternOf (dequant s.x s.i.toNat Config.lonOffset Config.lonDivisor))
      (patternOf (dequant s.y s.i.toNat Config.latOffset Config.latDivisor)))

end Sys2Proof.Machine
end

