-- ==== Sys2Proof/Machine/Decoder.lean ====
section
/-! DEFINITION. The decoder: commands `DIN`, `ACC`, `ZADJ` and the macro `DEC` (45_decoder.md). -/

namespace Sys2Proof.Machine

/-- `fold(a, g)`: `a` shifted left by 3, then OR with the group, modulo `2^45` (R191). -/
def fold (a : Grid) (g : Group) : Grid := (a <<< 3) ||| g.setWidth 45

/-- `DIN` (R190): `ZOOM` becomes -8, pattern 0xF8. -/
def execDin (s : State) : Result :=
  whenRunning s fun s => .next ((((s.withPoint 0 0).withZoom 0xF8).withIndex 0).withStop false)

/-- One digit folded in: `X`, `Y`, `ZOOM` and `I` together (R192). -/
def foldDigit (d : Digit) (s : State) : State :=
  ((s.withPoint (fold s.x (deinterleave6 d).1) (fold s.y (deinterleave6 d).2)).withZoom (s.zoom + 3)).withIndex (s.i + 1)

/-- `ACC` (R192). -/
def execAcc (s : State) : Result :=
  whenRunning s fun s =>
    if s.stop || !hasCharAt s 0 then .next (s.withStop true)
    else memRead s.i.toNat s fun c =>
      match charDigit c with
      | none => .next (s.withStop true)
      | some d => .next (foldDigit d s)

/-- `ZADJ` (R196): the second pad is looked at only if the first is there (R195). -/
def execZadj (s : State) : Result :=
  whenRunning s fun s =>
    if hasCharAt s 0 then
      memRead s.i.toNat s fun c =>
        if c = Config.padChar then
          if hasCharAt s 1 then
            memRead (s.i.toNat + 1) s fun c' =>
              if c' = Config.padChar then .next (s.withZoom (s.zoom - 2 + 1)) else .next (s.withZoom (s.zoom - 2))
          else .next (s.withZoom (s.zoom - 2))
        else .next s
    else .next s

/-- `DEC` (R198): `DIN; while STOP = 0: ACC; DQN; ZADJ`. -/
def execDec (s : State) : Result :=
  whenRunning s fun s =>
    andThen (execDin s) fun s =>
    andThen (repeatWhile 17 notStopped execAcc s) fun s =>
    andThen (execDqn s) fun s =>
    execZadj s

end Sys2Proof.Machine
end

