-- ==== Sys2Proof/Machine/Encoder.lean ====
section
/-! DEFINITION. The encoder: commands `LEN`, `EIN`, `EMIT`, `PADC` and the macro `ENC` (44_encoder.md). -/

namespace Sys2Proof.Machine

/-- `ndigits(z) = ceil((z + 8) / 3)`, equivalently `floor((z + 10) / 3)` (R160). -/
def ndigits (z : Int) : Nat := ((z + Config.zoomBias + 2) / 3).toNat

/-- `npads(z) = (z + 8) mod 3` (R161). -/
def npads (z : Int) : Nat := ((z + Config.zoomBias) % 3).toNat

/-- A zoom `LEN` accepts: -8..22 (R162). -/
def zoomLegal (z : Int) : Bool := Config.zoomMin ≤ z && z ≤ Config.zoomMax

/-- `LEN` (R162). -/
def execLen (s : State) : Result :=
  whenRunning s fun s =>
    if zoomLegal (zoomLevel s) then
      .next (s.withCounts (BitVec.ofNat 4 (ndigits (zoomLevel s))) (BitVec.ofNat 2 (npads (zoomLevel s))))
    else .next (raise .zoom s)

/-- `EIN` (R163). -/
def execEin (s : State) : Result :=
  whenRunning s fun s => .next ((s.withIndex 0).withLength 0)

/-- Field `j` (0..4) of a tier: bits `29-6j` down to `24-6j` (R80). -/
def tierField (c : Tier) (j : Nat) : Digit := ((c >>> (24 - 6 * j)) &&& 0x3f).setWidth 6

/-- `slice(c1, c2, i)`: digits 0..4 from `c1`, 5..9 from `c2` (R164). From 10 on it is not defined: a free value
(DESIGN CHOICE, log entry 6, safe). -/
def slice (c1 c2 : Tier) (i : Nat) : Digit :=
  if i < 5 then tierField c1 i
  else if i < 10 then tierField c2 (i - 5)
  else Config.sliceBeyond c1 c2 i

/-- The digit `EMIT` would emit at the present index (R166). -/
def nextDigit (s : State) : Digit := slice s.c1 s.c2 s.i.toNat

/-- Append one character: it goes to `CBUF[I]`, and `I` and `CLEN` become `I + 1` (R166, R168). -/
def appendChar (c : Byte) (s : State) : Result :=
  memWrite s.i.toNat c s fun t => .next ((t.withIndex (s.i + 1)).withLength (s.i + 1))

/-- `EMIT` (R166). -/
def execEmit (s : State) : Result :=
  whenRunning s fun s =>
    if digitsOwed s then appendChar (encDigit (nextDigit s)) s else .next (raise .seq s)

/-- `PADC` (R168). -/
def execPadc (s : State) : Result :=
  whenRunning s fun s =>
    if !digitsOwed s && charsOwed s then appendChar Config.padChar s else .next (raise .seq s)

/-- `ENC` (R170): `QNT; MRT; LEN; EIN; while I < ND: EMIT; while I < ND + NP: PADC`, ended by the first fault. -/
def execEnc (s : State) : Result :=
  whenRunning s fun s =>
    andThen (execQnt s) fun s =>
    andThen (execMrt s) fun s =>
    andThen (execLen s) fun s =>
    andThen (execEin s) fun s =>
    andThen (repeatWhile 16 digitsOwed execEmit s) fun s =>
    repeatWhile 16 charsOwed execPadc s

end Sys2Proof.Machine
end

