-- ==== Sys2Proof/Machine/Dispatch.lean ====
section
/-! DEFINITION. The effect of each command: one arm per command. -/

namespace Sys2Proof.Machine

def exec (i : Instr) (s : State) : Host.Outcome State Fault Refusal :=
  match i with
  | .qnt => Sys2Proof.Machine.execQnt s
  | .dqn => Sys2Proof.Machine.execDqn s
  | .mrt => Sys2Proof.Machine.execMrt s
  | .enc => Sys2Proof.Machine.execEnc s
  | .len => Sys2Proof.Machine.execLen s
  | .ein => Sys2Proof.Machine.execEin s
  | .emit => Sys2Proof.Machine.execEmit s
  | .padc => Sys2Proof.Machine.execPadc s
  | .dec => Sys2Proof.Machine.execDec s
  | .din => Sys2Proof.Machine.execDin s
  | .acc => Sys2Proof.Machine.execAcc s
  | .zadj => Sys2Proof.Machine.execZadj s

end Sys2Proof.Machine
end

