-- ==== Sys2Proof/Machine/HostPort.lean ====
section
/-! DEFINITION. The host interface but for commands (60_exceptions.md R235): register writes, reads and reset. -/

namespace Sys2Proof.Machine

/-- What the host gets when it reads a register or a cell, zero-extended to 64 bits. A read has no effect (R235). -/
def hostRead (s : State) : HostReg → BitVec 64
  | .lat => s.lat
  | .lon => s.lon
  | .zoom => s.zoom.setWidth 64
  | .x => s.x.setWidth 64
  | .y => s.y.setWidth 64
  | .c1 => s.c1.setWidth 64
  | .c2 => s.c2.setWidth 64
  | .nd => s.nd.setWidth 64
  | .np => s.np.setWidth 64
  | .i => s.i.setWidth 64
  | .clen => s.clen.setWidth 64
  | .cbuf k => (s.cbuf.cellAt k.val).setWidth 64
  | .status => (statusWord s).setWidth 64

/-- The string CORE holds: `CBUF[0], …, CBUF[CLEN-1]` (10_state.md R27). -/
def codeString (s : State) : List Byte := (List.range s.clen.toNat).map s.cbuf.cellAt

/-- The host writes that present a string: its characters to `CBUF[0..]` and their count to `CLEN` (30_encoding.md R75,
R236). A string longer than the buffer cannot be presented (R28). -/
def presentString (str : List Byte) : Option (List HostAction) :=
  if presentable str then
    some ((List.finRange 15).filterMap (fun k => str[k.val]?.map (HostAction.writeCbuf k)) ++
      [.writeClen (BitVec.ofNat 4 str.length)])
  else none

end Sys2Proof.Machine
end

