-- ==== Sys2Proof/Machine/Fetch.lean ====
section
/-! DEFINITION. What CORE does with one host action: a command word is decoded and run, every other action has the
effect of its row of 60_exceptions.md R235. -/

namespace Sys2Proof.Machine

/-- A command word: the command it names is run; a word that names none raises `E_ILLCMD` (R73, R221). -/
def runWord (w : Byte) (s : State) : Result :=
  match decode w with
  | .ok i => exec i s
  | .error _ => .next (raise .illCmd s)

/-- One host action (R235). -/
def runAction (a : HostAction) (s : State) : Result :=
  match a with
  | .writeLat b => .next (s.withCoord s.lon b)
  | .writeLon b => .next (s.withCoord b s.lat)
  | .writeZoom z => .next (s.withZoom z)
  | .writeClen n => .next (s.withLength n)
  | .writeCbuf k c => memWrite k.val c s .next
  | .read _ => .next s
  | .command w => runWord w s
  | .reset => .next (resetCore s)

end Sys2Proof.Machine
end

