-- ==== Sys2Proof/Machine/Step.lean ====
section
/-! DEFINITION. One step: the next pending host action, taken whole (70_reset_and_hazards.md R258). -/

namespace Sys2Proof.Machine

/-- CORE does nothing until the host acts (R251; log entry 2); otherwise the next action is taken off the host's list
and done. -/
def step (s : State) : Host.Outcome State Fault Refusal :=
  match s.host with
  | [] => .next s
  | a :: rest => runAction a (s.withHost rest)

/-- The command of these bits put in front of the host's pending actions, so that the next step runs it. -/
def State.withFetchWord (s : State) (nbits w : Nat) : State := s.withHost (.command (wordOfBits nbits w) :: s.host)

end Sys2Proof.Machine
end

