-- ==== Sys2Proof/Safety.lean ====
section
/-! DEFINITION. What the claims speak of: the invariant of reachable states, runs, and the macro commands' sequences. -/

namespace Sys2Proof.Machine

/-- What every reachable state satisfies: the buffer is in canonical form, `ND <= 10`, `NP <= 2` and their sum is at
most 12 (10_state.md R25), `ERR` is a code some rule produces (R31), and bits 31 and 30 of both tiers are 0 (R24). -/
def State.inv (s : State) : Bool :=
  s.cbuf.wf && s.nd.toNat ≤ 10 && s.np.toNat ≤ 2 && s.nd.toNat + s.np.toNat ≤ 12 && s.err.toNat ≤ 4 &&
    s.c1.toNat < 2 ^ 30 && s.c2.toNat < 2 ^ 30

/-- The next state of an outcome, if it is one. -/
def nextOf (r : Result) : Option State :=
  match r with
  | .next s => some s
  | .fault _ => none
  | .refused _ => none

/-- The host does these actions one by one (60_exceptions.md R228). -/
def runActions : List HostAction → State → Result
  | [], s => .next s
  | a :: as, s =>
    match runAction a s with
    | .next t => runActions as t
    | .fault f => .fault f
    | .refused f => .refused f

/-- The host issues these commands one by one. -/
def issue (is : List Instr) (s : State) : Result := runActions (is.map fun i => .command (encode i)) s

/-- The commands `ENC` stands for at zoom `z`, its loops written out (30_encoding.md R75). -/
def encSequence (z : Int) : List Instr :=
  .qnt :: .mrt :: .len :: .ein :: List.append (List.replicate (ndigits z) .emit) (List.replicate (npads z) .padc)

/-- The commands `DEC` stands for with `n` turns of its loop (R75). -/
def decSequence (n : Nat) : List Instr := .din :: List.append (List.replicate n .acc) [.dqn, .zadj]

/-- The real number a scaled value stands for: that many units of `2^-1074`. -/
def ratOf (v : Int) : ℚ := v / unitsPerOne

/-- `val(b)`, in degrees, of a finite pattern (41_quantizer.md R100). -/
def coord (b : Pattern) : ℚ := ratOf (scaledVal b)

/-- `v` is `RN(q)` (41_quantizer.md R101): `q` does not overflow, and `v` is the value of a finite pattern nearest to
`q`, of the one with the even fraction field if a second value is equally near. -/
def isRounded (q v : ℚ) : Prop :=
  |q| < 2 ^ 1024 - 2 ^ 970 ∧ ∃ b, isFinite b = true ∧ coord b = v ∧ ∀ c, isFinite c = true →
    |q - v| ≤ |q - coord c| ∧ (|q - v| = |q - coord c| → coord c ≠ v → fracField b % 2 = 0)

/-- A coordinate `QNT` rejects: an infinity or a NaN, or a sum `RN(val(b) + off)` of magnitude `2^994` or more (R222). -/
def coordRejected (b : Pattern) (off : Nat) : Prop :=
  isFinite b = false ∨ ∃ t, quantSum b off = some t ∧ 2 ^ 994 * unitsPerOne ≤ t.natAbs

/-- The longitude group of a buffer byte that is an alphabet character, as a number (45_decoder.md R199). -/
def lonGroup (c : Byte) : Nat := ((charDigit c).map fun d => (deinterleave6 d).1.toNat).getD 0

/-- The latitude group of a buffer byte that is an alphabet character, as a number (R199). -/
def latGroup (c : Byte) : Nat := ((charDigit c).map fun d => (deinterleave6 d).2.toNat).getD 0

/-- `n` is the length of the digit part of the string: its longest initial run of alphabet characters, `@` counted as
`~` (30_encoding.md R83, R199). -/
def digitPart (s : State) (n : Nat) : Prop :=
  n ≤ s.clen.toNat ∧ (∀ j < n, charDigit (s.cbuf.cellAt j) ≠ none) ∧
    (n = s.clen.toNat ∨ charDigit (s.cbuf.cellAt n) = none)

/-- Position `k` of the string holds a pad; a position past its end holds no character (R195). -/
def padAt (s : State) (k : Nat) : Bool := k < s.clen.toNat && s.cbuf.cellAt k == Config.padChar

/-- The term `adj` of R199. -/
def padAdjust (s : State) (n : Nat) : Int := if padAt s n then (if padAt s (n + 1) then -1 else -2) else 0

/-- A run has gone wrong exactly when it ends with `ERR` other than 0 (60_exceptions.md R228). -/
def wentWrong (s : State) : Bool := s.err != 0

end Sys2Proof.Machine
end

