-- ==== Sys2Proof/Certificates/Slice0/Obligations.lean ====
section
/-! DEFINITION. The statements for the provers. Each docstring names the rule of spec/ it formalises. Where
it calls the rule a derived one, the spec itself marks that rule as its own inference ("[derived: from ...]") and not as a
rule of the hardware: such a statement has basis 'derived'. -/

open Sys2Proof Sys2Proof.Machine

/-! ### Command words, steps and the host interface -/

/-- The 12 words of R71, each matched on all 8 bits. -/
def Obligations.CommandWordsAsTabled : Prop :=
  decode 0x10 = .ok .qnt ∧ decode 0x11 = .ok .dqn ∧ decode 0x20 = .ok .mrt ∧ decode 0x40 = .ok .enc ∧
  decode 0x41 = .ok .len ∧ decode 0x42 = .ok .ein ∧ decode 0x43 = .ok .emit ∧ decode 0x44 = .ok .padc ∧
  decode 0x50 = .ok .dec ∧ decode 0x51 = .ok .din ∧ decode 0x52 = .ok .acc ∧ decode 0x53 = .ok .zadj ∧
  ∀ w i, decode w = .ok i ↔ w = encode i

/-- A word is accepted exactly when its unit has commands and its function is one of that unit's (R70, R71, R73). -/
def Obligations.AcceptedWordsByFields : Prop :=
  ∀ w, (∃ i, decode w = .ok i) ↔ (CommandFields.ofWord w).wellFormed = true

/-- Each of the 244 other words, issued to a running core, raises `E_ILLCMD`: `ERR` becomes 1 and nothing else
changes (R73, R221). -/
def Obligations.IllegalWordRaisesIllCmd : Prop :=
  let words : List Byte := [0x10, 0x11, 0x20, 0x40, 0x41, 0x42, 0x43, 0x44, 0x50, 0x51, 0x52, 0x53]
  (∀ (w : Byte) (s : State), w ∉ words → s.err = 0 → runWord w s = .next { s with err := 1 }) ∧
  (∀ w ∈ words, ∃ i, decode w = .ok i) ∧
  (List.range 256).countP (fun n => decide (BitVec.ofNat 8 n ∉ words)) = 244

/-- A step takes the next pending host action off the list and does it; when that is a command word it runs the command
the word names, and `withFetchWord` makes it so. That the host's actions stand in a list in State is the model's choice
(log entry 1; R228, R234). -/
def Obligations.StepRunsDecodedCommand : Prop :=
  (∀ (s : State) (w : Byte) (rest : List HostAction) (i : Instr),
    s.host = .command w :: rest → decode w = .ok i → step s = exec i { s with host := rest }) ∧
  (∀ (s : State) (i : Instr), step (s.withFetchWord 8 (encode i).toNat) = exec i s) ∧
  ∀ (s : State) (a : HostAction) (rest : List HostAction), s.host = a :: rest →
    step s = runAction a { s with host := rest }

/-- What each host action of R235 does, and that no action but a command or reset reaches a register the host cannot
write. -/
def Obligations.HostActionEffects : Prop :=
  ∀ s : State, s.cbuf.wf = true →
  (∀ b, runAction (.writeLat b) s = .next { s with lat := b }) ∧
  (∀ b, runAction (.writeLon b) s = .next { s with lon := b }) ∧
  (∀ z, runAction (.writeZoom z) s = .next { s with zoom := z }) ∧
  (∀ n, runAction (.writeClen n) s = .next { s with clen := n }) ∧
  (∀ k c, ∃ t, runAction (.writeCbuf k c) s = .next t ∧ t = { s with cbuf := t.cbuf } ∧
    t.cbuf.cellAt k = c ∧ ∀ j, j ≠ k.val → t.cbuf.cellAt j = s.cbuf.cellAt j) ∧
  (∀ r, runAction (.read r) s = .next s) ∧
  (∀ w i, decode w = .ok i → runAction (.command w) s = exec i s) ∧
  (∃ t, runAction .reset s = .next t ∧ t = { State.reset with host := t.host }) ∧
  (∀ a t, (∀ w, a ≠ .command w) → a ≠ .reset → runAction a s = .next t →
    t.x = s.x ∧ t.y = s.y ∧ t.c1 = s.c1 ∧ t.c2 = s.c2 ∧ t.nd = s.nd ∧ t.np = s.np ∧ t.i = s.i ∧
    t.stop = s.stop ∧ t.err = s.err)

/-- The machine's own run does the pending actions one by one, in order, and none of them looks at what is still
pending: `k` steps on a state with `k` actions in front of others do just those actions, and leave the others pending.
That the actions stand in State is the model's choice (log entry 1; R60, R228). -/
def Obligations.RunDoesPendingActionsInOrder : Prop :=
  ∀ (as rest : List HostAction) (s : State),
    core.run as.length { s with host := as ++ rest } = runActions as { s with host := rest }

/-- With no host action pending a step changes nothing (R251; how the model says "CORE does nothing" is log entry 2). -/
def Obligations.IdleCoreKeepsItsState : Prop := ∀ s : State, s.host = [] → step s = .next s

/-- `STATUS` (R29): bit 3 is `STOP`, bits 2..0 are `ERR`, and no host write changes it. That the host's read gives this
word by the function `hostRead`, zero-extended to 64 bits, is the model's (DEDUCED, log entry 9). -/
def Obligations.StatusWordLayout : Prop :=
  (∀ s : State, (statusWord s).getLsbD 3 = s.stop ∧ (statusWord s).extractLsb' 0 3 = s.err ∧
    hostRead s .status = (statusWord s).setWidth 64) ∧
  ∀ (s t : State) (a : HostAction), (∀ w, a ≠ .command w) → a ≠ .reset → runAction a s = .next t →
    statusWord t = statusWord s

/-- Presenting a string of at most 15 characters leaves exactly that string in the buffer and touches nothing else
(R27, R75); a longer one cannot be presented (R28). -/
def Obligations.PresentedStringIsHeld : Prop :=
  (∀ (str : List Byte) (s : State), str.length ≤ 15 → s.cbuf.wf = true →
    ∃ acts t, presentString str = some acts ∧ runActions acts s = .next t ∧
      t = { s with cbuf := t.cbuf, clen := t.clen } ∧ codeString t = str ∧
      ∀ k, str.length ≤ k → t.cbuf.cellAt k = s.cbuf.cellAt k) ∧
  ∀ str : List Byte, 15 < str.length → presentString str = none

/-! ### Reset and faults -/

/-- After reset every bit of state is zero and every buffer cell reads 0x00 (R36); asserting reset leaves that state,
and `State.reset` is it. -/
def Obligations.ResetClearsEveryBit : Prop :=
  ∀ s : State, ∃ t, runAction .reset s = .next t ∧ t.lat = 0 ∧ t.lon = 0 ∧ t.zoom = 0 ∧ t.x = 0 ∧ t.y = 0 ∧
    t.c1 = 0 ∧ t.c2 = 0 ∧ t.nd = 0 ∧ t.np = 0 ∧ t.i = 0 ∧ t.clen = 0 ∧ t.stop = false ∧ t.err = 0 ∧
    (∀ k, t.cbuf.cellAt k = 0x00) ∧ State.reset = { t with host := State.reset.host }

/-- Raising a fault (R225): `ERR` takes the code 1 to 4 if it was 0, and nothing else changes; so a command other than
the macro `ENC`, whose earlier steps keep their effects (R227), leaves only `ERR` changed when it faults. -/
def Obligations.FaultChangesOnlyErr : Prop :=
  (∀ (f : FaultCode) (s : State), s.err = 0 → raise f s = { s with err := f.code }) ∧
  (∀ (f : FaultCode) (s : State), s.err ≠ 0 → raise f s = s) ∧
  (FaultCode.code .illCmd = 1 ∧ FaultCode.code .nonFinite = 2 ∧ FaultCode.code .zoom = 3 ∧ FaultCode.code .seq = 4) ∧
  ∀ (i : Instr) (s t : State), i ≠ .enc → s.err = 0 → exec i s = .next t → t.err ≠ 0 → t = { s with err := t.err }

/-- A faulted core ignores every command word, legal or illegal; the host's reads and writes still do what they do; and
only reset clears `ERR` (R226). -/
def Obligations.FaultedCoreWaitsForReset : Prop :=
  ∀ s : State, s.err ≠ 0 →
  (∀ i, exec i s = .next s) ∧ (∀ w, runWord w s = .next s) ∧ (∀ r, runAction (.read r) s = .next s) ∧
  (∀ b c z n, runAction (.writeLat b) s = .next { s with lat := b } ∧
    runAction (.writeLon c) s = .next { s with lon := c } ∧ runAction (.writeZoom z) s = .next { s with zoom := z } ∧
    runAction (.writeClen n) s = .next { s with clen := n }) ∧
  (∀ k c, runAction (.writeCbuf k c) s = .next { s with cbuf := s.cbuf.put k.val c }) ∧
  (∀ a t, a ≠ .reset → runAction a s = .next t → t.err = s.err) ∧
  (∀ t, runAction .reset s = .next t → t.err = 0)

/-! ### The quantizer -/

/-- `RN` (R101) on scaled rationals: it overflows exactly from `2^1024 - 2^970` on, and below that it gives the
binary64 value nearest to its argument, the one with the even fraction field when two are equally near. -/
def Obligations.RoundingIsNearestTiesToEven : Prop :=
  ∀ (num : Int) (den : Nat), 0 < den →
    (roundNearest num den = none ↔ (2 ^ 1024 - 2 ^ 970 : ℚ) ≤ |ratOf num / den|) ∧
    ∀ v, roundNearest num den = some v → isRounded (ratOf num / den) (ratOf v)

/-- `rhaz` (R102): to the nearest integer, ties away from zero, with the rule's four examples. -/
def Obligations.RoundingHalfAwayFromZero : Prop :=
  (∀ v : ℚ, roundHalfAway v.num v.den = if 0 ≤ v then ⌊v + 1 / 2⌋ else -⌊-v + 1 / 2⌋) ∧
  roundHalfAway 9 2 = 5 ∧ roundHalfAway 11 2 = 6 ∧ roundHalfAway (-9) 2 = -5 ∧ roundHalfAway 49 100 = 0

/-- `quant1` as R104 writes it, over the rationals and from what rounding is, not from how the model computes it: the
sum rounded; then the product, which is exact unless it overflows, exactly when the sum reaches `2^994`; then the
quotient rounded; then the nearest integer, ties away from zero, modulo `2^32`. -/
def Obligations.QuantizeFunction : Prop :=
  ∀ (b : Pattern) (off div : Nat), (off = 180 ∧ div = 90 ∨ off = 90 ∧ div = 45) →
    (isFinite b = false → quant1 b off div = none) ∧
    (isFinite b = true → ∃ t : ℚ, isRounded (coord b + off) t ∧
      (2 ^ 994 ≤ |t| → (2 ^ 1024 - 2 ^ 970 : ℚ) ≤ |t * 2 ^ 30| ∧ quant1 b off div = none) ∧
      (|t| < 2 ^ 994 → isRounded (t * 2 ^ 30) (t * 2 ^ 30) ∧
        ∃ v : ℚ, isRounded (t * 2 ^ 30 / div) v ∧
          quant1 b off div = some (BitVec.ofInt 32 (if 0 ≤ v then ⌊v + 1 / 2⌋ else -⌊-v + 1 / 2⌋))))

/-- `QNT` (R107), its fault condition in full: it writes `X` and `Y` when neither coordinate is rejected, and raises
`E_NONFINITE` with nothing else changed when either is. -/
def Obligations.QuantizeCommand : Prop :=
  encode .qnt = 0x10 ∧ ∀ s : State, s.err = 0 →
  (¬ coordRejected s.lon 180 → ¬ coordRejected s.lat 90 →
    ∃ qx qy, quant1 s.lon 180 90 = some qx ∧ quant1 s.lat 90 45 = some qy ∧
      exec .qnt s = .next { s with x := qx.setWidth 45, y := qy.setWidth 45 }) ∧
  (coordRejected s.lon 180 ∨ coordRejected s.lat 90 → exec .qnt s = .next { s with err := 2 })

/-- `E_NONFINITE` (R222): raised by `QNT`, and by `ENC` through it, exactly when a coordinate is rejected. -/
def Obligations.NonFiniteFaultRaised : Prop :=
  ∀ s : State, s.err = 0 →
    (coordRejected s.lon 180 ∨ coordRejected s.lat 90 →
      exec .qnt s = .next { s with err := 2 } ∧ exec .enc s = .next { s with err := 2 }) ∧
    (¬ (coordRejected s.lon 180 ∨ coordRejected s.lat 90) →
      ∀ t, exec .qnt s = .next t ∨ exec .enc s = .next t → t.err ≠ 2)

/-- Every longitude from `180 - 90/2^31` to 180 degrees is stored as 0, the west edge, and likewise the latitudes just
below 90 degrees (derived rule R108). -/
def Obligations.EastAndNorthEdgesWrap : Prop :=
  ∀ b : Pattern, isFinite b = true →
    (180 - 90 / 2 ^ 31 ≤ coord b → coord b ≤ 180 → quant1 b 180 90 = some 0) ∧
    (90 - 45 / 2 ^ 31 ≤ coord b → coord b ≤ 90 → quant1 b 90 45 = some 0)

/-- Accuracy of the quantizer in the nominal domain against the real-number formula of R103 (derived rule R109): the
integer lies in `0..2^32`, within `1/2 + 2^-19` of the exact value; it is the exact value rounded, unless that lies
within `2^-19` of a half-integer, and then it differs by at most 1. -/
def Obligations.QuantizerAccuracy : Prop :=
  ∀ (b : Pattern) (off div : Nat), isFinite b = true → (off = 180 ∧ div = 90 ∨ off = 90 ∧ div = 45) →
    |coord b| ≤ off →
    let exact : ℚ := (coord b + off) * 2 ^ 30 / div
    ∃ r, quantInt b off div = some r ∧ 0 ≤ r ∧ r ≤ 2 ^ 32 ∧ |(r : ℚ) - exact| < 1 / 2 + 1 / 2 ^ 19 ∧
      |r - roundHalfAway exact.num exact.den| ≤ 1 ∧
      ((∀ k : ℤ, 1 / 2 ^ 19 ≤ |exact - (k + 1 / 2)|) → r = roundHalfAway exact.num exact.den)

/-- `DQN` (R110, R111): it writes the exact rationals, which are binary64 values, with positive zero for 0, and nothing
else. -/
def Obligations.DequantizeCommandIsExact : Prop :=
  encode .dqn = 0x11 ∧ ∀ s : State, s.err = 0 →
    ∃ t, exec .dqn s = .next t ∧ t = { s with lon := t.lon, lat := t.lat } ∧
      isFinite t.lon = true ∧ coord t.lon = s.x.toNat * (2 : ℚ) ^ (2 - 3 * (s.i.toNat : ℤ)) * 90 - 180 ∧
      isFinite t.lat = true ∧ coord t.lat = s.y.toNat * (2 : ℚ) ^ (2 - 3 * (s.i.toNat : ℤ)) * 45 - 90 ∧
      (coord t.lon = 0 → t.lon = 0) ∧ (coord t.lat = 0 → t.lat = 0)

/-! ### The interleaver -/

/-- `spread16` (R121): bit `2k` is bit `k` of the operand, odd bits are 0, and the shift-OR-mask sequence computes the
same word. -/
def Obligations.SpreadMappingAndSequence : Prop :=
  ∀ a : BitVec 16,
    (∀ k < 16, (spread16 a).getLsbD (2 * k) = a.getLsbD k ∧ (spread16 a).getLsbD (2 * k + 1) = false) ∧
    spread16Swar a = spread16 a

/-- The Morton layout (R78, R122): bit `2k+1` from the first operand, bit `2k` from the second, as bits and as a sum. -/
def Obligations.MortonLayout : Prop :=
  ∀ a b : BitVec 16,
    interleave a b = (spread16 a <<< 1) ||| spread16 b ∧
    (∀ k < 16, (interleave a b).getLsbD (2 * k + 1) = a.getLsbD k ∧ (interleave a b).getLsbD (2 * k) = b.getLsbD k) ∧
    (interleave a b).toNat =
      ∑ k ∈ Finset.range 16, ((a.getLsbD k).toNat * 2 ^ (2 * k + 1) + (b.getLsbD k).toNat * 2 ^ (2 * k))

/-- Properties of `interleave` (derived rule R124): injective, split into two terms that share no bit, and `2n` bits
for `n`-bit operands. -/
def Obligations.InterleaveProperties : Prop :=
  (∀ a b a' b' : BitVec 16, interleave a b = interleave a' b' → a = a' ∧ b = b') ∧
  (∀ a b : BitVec 16, interleave a b = interleave a 0 ||| interleave 0 b ∧ interleave a 0 &&& interleave 0 b = 0 ∧
    interleave a 0 = spread16 a <<< 1 ∧ interleave 0 b = spread16 b) ∧
  ∀ (a b : BitVec 16) (n : Nat), a.toNat < 2 ^ n → b.toNat < 2 ^ n → (interleave a b).toNat < 2 ^ (2 * n)

/-- `deinterleave6` (R81, R125): the odd bits and the even bits of the digit, the inverse of `interleave` on 3-bit
operands. -/
def Obligations.DeinterleaveInvertsInterleave : Prop :=
  (∀ (d : Digit), ∀ k < 3, (deinterleave6 d).1.getLsbD k = d.getLsbD (2 * k + 1) ∧
    (deinterleave6 d).2.getLsbD k = d.getLsbD (2 * k)) ∧
  (∀ d : Digit, interleave ((deinterleave6 d).1.setWidth 16) ((deinterleave6 d).2.setWidth 16) = d.setWidth 32) ∧
  ∀ p q : Group, deinterleave6 ((interleave (p.setWidth 16) (q.setWidth 16)).setWidth 6) = (p, q)

/-- `MRT` (R126): two Morton codes of 15-bit operands; bits 1..0 and 44..32 of `X` and `Y` have no influence. -/
def Obligations.MortonCommand : Prop :=
  encode .mrt = 0x20 ∧
  (∀ s : State, s.err = 0 → ∃ t, exec .mrt s = .next t ∧
    t = { s with
      c1 := interleave ((s.x.extractLsb' 17 15).setWidth 16) ((s.y.extractLsb' 17 15).setWidth 16),
      c2 := interleave ((s.x.extractLsb' 2 15).setWidth 16) ((s.y.extractLsb' 2 15).setWidth 16) }) ∧
  ∀ s s' t t' : State, s.err = 0 → s'.err = 0 → s.x.extractLsb' 2 30 = s'.x.extractLsb' 2 30 →
    s.y.extractLsb' 2 30 = s'.y.extractLsb' 2 30 → exec .mrt s = .next t → exec .mrt s' = .next t' →
    t.c1 = t'.c1 ∧ t.c2 = t'.c2

/-- The two tiers together are one 60-bit interleave of bits 31..2 of `X` and `Y`, `C1` the upper half (derived rule
R127). -/
def Obligations.TiersFormOneWideInterleave : Prop :=
  ∀ s t : State, s.err = 0 → exec .mrt s = .next t → ∀ k < 30,
    (t.c1.toNat * 2 ^ 30 + t.c2.toNat).testBit (2 * k + 1) = s.x.getLsbD (k + 2) ∧
    (t.c1.toNat * 2 ^ 30 + t.c2.toNat).testBit (2 * k) = s.y.getLsbD (k + 2)

/-- The ten digits as bits of the quantized point (derived rule R79). -/
def Obligations.DigitsAsBitsOfThePoint : Prop :=
  ∀ s t : State, s.err = 0 → exec .mrt s = .next t → ∀ n < 10, ∀ j < 3,
    (slice t.c1 t.c2 n).getLsbD (2 * j + 1) = s.x.getLsbD (29 - 3 * n + j) ∧
    (slice t.c1 t.c2 n).getLsbD (2 * j) = s.y.getLsbD (29 - 3 * n + j)

/-! ### The alphabet -/

/-- The alphabet ROM in closed form, its 64 codes distinct (R76, R140). -/
def Obligations.AlphabetTable : Prop :=
  (∀ d : Digit,
    (encDigit d).toNat =
      if d.toNat ≤ 25 then 0x41 + d.toNat
      else if d.toNat ≤ 51 then 0x61 + (d.toNat - 26)
      else if d.toNat ≤ 61 then 0x30 + (d.toNat - 52)
      else if d.toNat = 62 then 0x5F else 0x7E) ∧
  ∀ d d' : Digit, encDigit d = encDigit d' → d = d'

/-- The laws of the alphabet codec (derived rule R145), and `dec_char` as the reverse lookup (R143). -/
def Obligations.AlphabetCodecLaws : Prop :=
  (∀ d : Digit, decChar (encDigit d) = some d) ∧
  (∀ (c : Byte) (d : Digit), decChar c = some d → encDigit d = c) ∧
  decChar (normChar 0x40) = some 63 ∧ decChar 0x7E = some 63 ∧
  (∀ c : Byte, c ≠ 0x40 → decChar (normChar c) = decChar c) ∧
  ∀ d : Digit, encDigit d ≠ 0x2D ∧ encDigit d ≠ 0x40

/-! ### The encoder -/

/-- `LEN` (R160, R161, R162): the digit count `ceil((z+8)/3)` and the pad count `(z+8) mod 3` for a zoom in -8..22, and
`E_ZOOM` outside. -/
def Obligations.LengthCommand : Prop :=
  encode .len = 0x41 ∧ ∀ s : State, s.err = 0 →
  (-8 ≤ s.zoom.toInt → s.zoom.toInt ≤ 22 →
    ∃ t, exec .len s = .next t ∧ t = { s with nd := t.nd, np := t.np } ∧
      (t.nd.toNat : ℤ) = ⌈((s.zoom.toInt : ℚ) + 8) / 3⌉ ∧ (t.np.toNat : ℤ) = (s.zoom.toInt + 8) % 3) ∧
  (s.zoom.toInt < -8 ∨ 22 < s.zoom.toInt → exec .len s = .next { s with err := 3 })

/-- `EIN` (R163). -/
def Obligations.EncoderInitCommand : Prop :=
  encode .ein = 0x42 ∧ ∀ s : State, s.err = 0 → exec .ein s = .next { s with i := 0, clen := 0 }

/-- `slice` (R164): digit `i` is the field of `C1` or, from 5 on, of `C2` at shift `24 - 6i`, re-based. -/
def Obligations.SliceFields : Prop :=
  ∀ (c1 c2 : Tier) (i : Nat),
    (i < 5 → slice c1 c2 i = ((c1 >>> (24 - 6 * i)) &&& 0x3f).setWidth 6 ∧
      (slice c1 c2 i).toNat = c1.toNat / 2 ^ (24 - 6 * i) % 64 ∧ slice c1 c2 i = c1.extractLsb' (24 - 6 * i) 6) ∧
    (5 ≤ i → i < 10 → slice c1 c2 i = ((c2 >>> (24 - 6 * (i - 5))) &&& 0x3f).setWidth 6 ∧
      (slice c1 c2 i).toNat = c2.toNat / 2 ^ (24 - 6 * (i - 5)) % 64 ∧
      slice c1 c2 i = c2.extractLsb' (24 - 6 * (i - 5)) 6)

/-- `EMIT` (R166), in states with `ND <= 10`, which every reachable state is (R25): with a digit owed it stores that
digit's character in cell `I` and in no other, and `I` and `CLEN` become `I + 1`; with none owed it raises `E_SEQ` and
nothing else changes. -/
def Obligations.EmitCommand : Prop :=
  encode .emit = 0x43 ∧ ∀ s : State, s.err = 0 → s.cbuf.wf = true → s.nd.toNat ≤ 10 →
  (s.i.toNat < s.nd.toNat →
    ∃ t, exec .emit s = .next t ∧ t = { s with cbuf := t.cbuf, i := s.i + 1, clen := s.i + 1 } ∧
      t.i.toNat = s.i.toNat + 1 ∧ t.cbuf.cellAt s.i.toNat = encDigit (slice s.c1 s.c2 s.i.toNat) ∧
      ∀ k, k ≠ s.i.toNat → t.cbuf.cellAt k = s.cbuf.cellAt k) ∧
  (s.nd.toNat ≤ s.i.toNat → exec .emit s = .next { s with err := 4 })

/-- `PADC` (R168), in states with `ND + NP <= 12`, which every reachable state is (R25): with a pad owed it stores `-`
in cell `I` and in no other, and `I` and `CLEN` become `I + 1`; otherwise it raises `E_SEQ` and nothing else changes.
-/
def Obligations.PadCommand : Prop :=
  encode .padc = 0x44 ∧ ∀ s : State, s.err = 0 → s.cbuf.wf = true → s.nd.toNat + s.np.toNat ≤ 12 →
  (s.nd.toNat ≤ s.i.toNat → s.i.toNat < s.nd.toNat + s.np.toNat →
    ∃ t, exec .padc s = .next t ∧ t = { s with cbuf := t.cbuf, i := s.i + 1, clen := s.i + 1 } ∧
      t.i.toNat = s.i.toNat + 1 ∧ t.cbuf.cellAt s.i.toNat = 0x2D ∧
      ∀ k, k ≠ s.i.toNat → t.cbuf.cellAt k = s.cbuf.cellAt k) ∧
  (s.i.toNat < s.nd.toNat ∨ s.nd.toNat + s.np.toNat ≤ s.i.toNat → exec .padc s = .next { s with err := 4 })

/-- `ENC` on the legal domain (R170): it completes without a fault, and every register and every buffer cell afterwards
is what the rule says. -/
def Obligations.EncodeCommand : Prop :=
  encode .enc = 0x40 ∧ ∀ (s : State) (qx qy : BitVec 32), s.err = 0 → s.cbuf.wf = true →
    quant1 s.lon 180 90 = some qx → quant1 s.lat 90 45 = some qy → -8 ≤ s.zoom.toInt → s.zoom.toInt ≤ 22 →
    ∃ t, exec .enc s = .next t ∧
      t = { s with
        x := qx.setWidth 45, y := qy.setWidth 45,
        c1 := interleave ((qx.extractLsb' 17 15).setWidth 16) ((qy.extractLsb' 17 15).setWidth 16),
        c2 := interleave ((qx.extractLsb' 2 15).setWidth 16) ((qy.extractLsb' 2 15).setWidth 16),
        nd := t.nd, np := t.np, i := t.i, clen := t.clen, cbuf := t.cbuf } ∧
      (t.nd.toNat : ℤ) = ⌈((s.zoom.toInt : ℚ) + 8) / 3⌉ ∧ (t.np.toNat : ℤ) = (s.zoom.toInt + 8) % 3 ∧
      t.i = t.clen ∧ t.clen.toNat = t.nd.toNat + t.np.toNat ∧
      (∀ k < t.nd.toNat, t.cbuf.cellAt k = encDigit (slice t.c1 t.c2 k)) ∧
      (∀ k, t.nd.toNat ≤ k → k < t.clen.toNat → t.cbuf.cellAt k = 0x2D) ∧
      ∀ k, t.clen.toNat ≤ k → t.cbuf.cellAt k = s.cbuf.cellAt k

/-- How `ENC` faults (R170, R223, R229): a rejected coordinate leaves `ERR = 2` and nothing else changed, whatever the
zoom; a zoom outside -8..22 leaves `ERR = 3` and the new `X`, `Y`, `C1`, `C2`. -/
def Obligations.EncodeFaults : Prop :=
  ∀ s : State, s.err = 0 →
  (coordRejected s.lon 180 ∨ coordRejected s.lat 90 → exec .enc s = .next { s with err := 2 }) ∧
  ∀ qx qy : BitVec 32, quant1 s.lon 180 90 = some qx → quant1 s.lat 90 45 = some qy →
    (s.zoom.toInt < -8 ∨ 22 < s.zoom.toInt) →
    exec .enc s = .next { s with
      x := qx.setWidth 45, y := qy.setWidth 45,
      c1 := interleave ((qx.extractLsb' 17 15).setWidth 16) ((qy.extractLsb' 17 15).setWidth 16),
      c2 := interleave ((qx.extractLsb' 2 15).setWidth 16) ((qy.extractLsb' 2 15).setWidth 16),
      err := 3 }

/-- `ENC` equals, in every case including the faulting ones, the host issuing the commands of its sequence one by one
(R227). -/
def Obligations.EncodeEqualsIssuedSequence : Prop :=
  ∀ s : State, issue (encSequence s.zoom.toInt) s = exec .enc s

/-- The length of a short code and its alphabet (derived rules R171, R172). -/
def Obligations.ShortCodeShape : Prop :=
  ∀ s t : State, s.err = 0 → s.cbuf.wf = true → exec .enc s = .next t → t.err = 0 →
    (t.clen.toNat : ℤ) = ⌈((s.zoom.toInt : ℚ) + 8) / 3⌉ + (s.zoom.toInt + 8) % 3 ∧
    (∀ k < t.nd.toNat, ∃ d, t.cbuf.cellAt k = encDigit d) ∧
    (∀ k, t.nd.toNat ≤ k → k < t.clen.toNat → t.cbuf.cellAt k = 0x2D) ∧
    ∀ c ∈ codeString t, c ≠ 0x40

/-- `ENC` is a function of `LAT`, `LON` and `ZOOM`, and running it twice leaves the same state (derived rule R173). -/
def Obligations.EncodeDependsOnInputsOnly : Prop :=
  (∀ s s' t t' : State, s.err = 0 → s'.err = 0 → s.cbuf.wf = true → s'.cbuf.wf = true →
    s.lat = s'.lat → s.lon = s'.lon → s.zoom = s'.zoom → exec .enc s = .next t → t.err = 0 → exec .enc s' = .next t' →
    t'.err = 0 ∧ t'.x = t.x ∧ t'.y = t.y ∧ t'.c1 = t.c1 ∧ t'.c2 = t.c2 ∧ t'.nd = t.nd ∧ t'.np = t.np ∧ t'.i = t.i ∧
      t'.clen = t.clen ∧ codeString t' = codeString t) ∧
  ∀ s t : State, s.err = 0 → s.cbuf.wf = true → exec .enc s = .next t → t.err = 0 → exec .enc t = .next t

/-- The digits at a lower zoom are the first digits at any higher zoom of the same point (derived rule R165). -/
def Obligations.LowerZoomDigitsComeFirst : Prop :=
  ∀ s s' t t' : State, s.err = 0 → s'.err = 0 → s.cbuf.wf = true → s'.cbuf.wf = true →
    s.lat = s'.lat → s.lon = s'.lon → s.zoom.toInt ≤ s'.zoom.toInt →
    exec .enc s = .next t → t.err = 0 → exec .enc s' = .next t' → t'.err = 0 →
    t.nd.toNat ≤ t'.nd.toNat ∧ ∀ k < t.nd.toNat, t.cbuf.cellAt k = t'.cbuf.cellAt k

/-- `ENC` completes for every finite coordinate whose sum with its offset is at most the largest binary64 value below
`2^994`, at every zoom in -8..22. This is the derived rule R174 with its bound mended: as worded it fails at `-2^994`
(log entry 7). -/
def Obligations.EncodeTotalBelowTheBound : Prop :=
  ∀ s : State, s.err = 0 → isFinite s.lon = true → isFinite s.lat = true →
    |coord s.lon + 180| ≤ 2 ^ 994 - 2 ^ 941 → |coord s.lat + 90| ≤ 2 ^ 994 - 2 ^ 941 →
    -8 ≤ s.zoom.toInt → s.zoom.toInt ≤ 22 → ∃ t, exec .enc s = .next t ∧ t.err = 0

/-- The derived rule R174 word for word. It is expected to FAIL: at `LON = -2^994` the exact sum is below `2^994` in
magnitude, but `RN` takes it to `-2^994`, where R104, R107 and R222 raise `E_NONFINITE` (log entry 7). -/
def Obligations.EncodeTotalAsWorded : Prop :=
  ∀ s : State, isFinite s.lon = true → isFinite s.lat = true → |coord s.lon + 180| < 2 ^ 994 →
    |coord s.lat + 90| < 2 ^ 994 → -8 ≤ s.zoom.toInt → s.zoom.toInt ≤ 22 → s.err = 0 →
    ∃ t, exec .enc s = .next t ∧ t.err = 0

/-! ### The decoder -/

/-- `DIN` (R190). -/
def Obligations.DecoderInitCommand : Prop :=
  encode .din = 0x51 ∧
  ∀ s : State, s.err = 0 → exec .din s = .next { s with x := 0, y := 0, zoom := 0xF8, i := 0, stop := false }

/-- `fold` (R191): shift left by 3, then OR, modulo `2^45`; nothing is lost below `2^42`. -/
def Obligations.FoldShiftsInThreeBits : Prop :=
  ∀ (a : Grid) (g : Group),
    (fold a g).toNat = ((a.toNat <<< 3) ||| g.toNat) % 2 ^ 45 ∧
    (a.toNat <<< 3) ||| g.toNat = 8 * a.toNat + g.toNat ∧
    (a.toNat < 2 ^ 42 → (fold a g).toNat = 8 * a.toNat + g.toNat)

/-- `ACC` (R192): its three cases, one on every state of a running core. -/
def Obligations.AccumulateCommand : Prop :=
  encode .acc = 0x52 ∧ ∀ s : State, s.err = 0 →
  (s.stop = true ∨ s.clen.toNat ≤ s.i.toNat → exec .acc s = .next { s with stop := true }) ∧
  (s.stop = false → s.i.toNat < s.clen.toNat → decChar (normChar (s.cbuf.cellAt s.i.toNat)) = none →
    exec .acc s = .next { s with stop := true }) ∧
  ∀ d, s.stop = false → s.i.toNat < s.clen.toNat → decChar (normChar (s.cbuf.cellAt s.i.toNat)) = some d →
    exec .acc s = .next { s with
      x := fold s.x (deinterleave6 d).1, y := fold s.y (deinterleave6 d).2, zoom := s.zoom + 3, i := s.i + 1 }

/-- `ZADJ` (R196): 2 less for a pad at `I`, 1 more again for another at `I + 1`; a position past the string holds no pad
and a pad at `I + 1` alone counts for nothing (R195). -/
def Obligations.ZoomAdjustCommand : Prop :=
  encode .zadj = 0x53 ∧ ∀ s : State, s.err = 0 →
  let first := s.i.toNat < s.clen.toNat ∧ s.cbuf.cellAt s.i.toNat = 0x2D
  let second := s.i.toNat + 1 < s.clen.toNat ∧ s.cbuf.cellAt (s.i.toNat + 1) = 0x2D
  (¬ first → exec .zadj s = .next s) ∧
  (first → ¬ second → exec .zadj s = .next { s with zoom := s.zoom - 2 }) ∧
  (first → second → exec .zadj s = .next { s with zoom := s.zoom - 2 + 1 })

/-- The decode loop ends after at most `CLEN + 1` turns (derived rule R193), from any state of a running core; and
after it `I` has passed no character that is not of the alphabet, and stands where the loop stopped. -/
def Obligations.DecodeLoopEnds : Prop :=
  ∀ s : State, s.err = 0 →
    ∃ t, issue (List.replicate (s.clen.toNat + 1) .acc) s = .next t ∧ t.stop = true ∧
      t = { s with x := t.x, y := t.y, zoom := t.zoom, i := t.i, stop := true } ∧ s.i.toNat ≤ t.i.toNat ∧
      (∀ k, s.i.toNat ≤ k → k < t.i.toNat → k < s.clen.toNat ∧ decChar (normChar (s.cbuf.cellAt k)) ≠ none) ∧
      (s.stop = false → s.clen.toNat ≤ t.i.toNat ∨ decChar (normChar (s.cbuf.cellAt t.i.toNat)) = none)

/-- `DEC` equals the host issuing `DIN`, sixteen `ACC`, `DQN` and `ZADJ` one by one: sixteen turns are enough for every
string, and turns after the last change nothing (R75, R193, R198). -/
def Obligations.DecodeEqualsIssuedSequence : Prop :=
  ∀ s : State, issue (decSequence 16) s = exec .dec s

/-- `DEC` in closed form (derived rule R199): with `n` the length of the digit part, `I = n`, `X` and `Y` are the
digits' groups read in base 8, `LON` and `LAT` are `DQN` of those, `ZOOM` is `3n - 8` adjusted by the pads, `STOP` is
set, and nothing else changes. -/
def Obligations.DecodeClosedForm : Prop :=
  encode .dec = 0x50 ∧ ∀ (s : State) (n : Nat), s.err = 0 → digitPart s n →
    ∃ t, exec .dec s = .next t ∧
      t = { s with x := t.x, y := t.y, i := t.i, stop := true, zoom := t.zoom, lon := t.lon, lat := t.lat } ∧
      t.i.toNat = n ∧
      t.x.toNat = ∑ j ∈ Finset.range n, lonGroup (s.cbuf.cellAt j) * 8 ^ (n - 1 - j) ∧
      t.y.toNat = ∑ j ∈ Finset.range n, latGroup (s.cbuf.cellAt j) * 8 ^ (n - 1 - j) ∧
      t.x.toNat < 8 ^ n ∧ t.y.toNat < 8 ^ n ∧
      t.lon = patternOf (dequant t.x n 180 90) ∧ t.lat = patternOf (dequant t.y n 90 45) ∧
      t.zoom.toInt = 3 * n - 8 + padAdjust s n

/-- `DEC` reads only the digit part and the two bytes after it (derived rule R200). -/
def Obligations.DecodeReadsOnlyItsString : Prop :=
  ∀ (s s' t t' : State) (n : Nat), s.err = 0 → s'.err = 0 → s.clen = s'.clen → digitPart s n →
    (∀ k, k < n + 2 → k < s.clen.toNat → s.cbuf.cellAt k = s'.cbuf.cellAt k) →
    exec .dec s = .next t → exec .dec s' = .next t' →
    t.x = t'.x ∧ t.y = t'.y ∧ t.i = t'.i ∧ t.stop = t'.stop ∧ t.zoom = t'.zoom ∧ t.lon = t'.lon ∧ t.lat = t'.lat

/-- `@` decodes as `~` at every position (derived rule R142), and `CBUF` is left as it was. -/
def Obligations.LegacyCharacterDecodesAlike : Prop :=
  ∀ s s' t t' : State, s.err = 0 → s'.err = 0 → s.clen = s'.clen →
    (∀ k < s.clen.toNat, normChar (s.cbuf.cellAt k) = normChar (s'.cbuf.cellAt k)) →
    exec .dec s = .next t → exec .dec s' = .next t' →
    t.x = t'.x ∧ t.y = t'.y ∧ t.i = t'.i ∧ t.zoom = t'.zoom ∧ t.lon = t'.lon ∧ t.lat = t'.lat ∧
      t.cbuf = s.cbuf ∧ t'.cbuf = s'.cbuf

/-! ### Encoding and then decoding -/

/-- The truncation law and zoom recovery (derived rules R201, R204): after `ENC` without a fault and then `DEC`, `I =
ND`, `X` and `Y` are the top `3 ND` bits of the encoder's, and `ZOOM` is the encoder's. -/
def Obligations.RoundTripTruncates : Prop :=
  ∀ s t : State, s.err = 0 → s.cbuf.wf = true → exec .enc s = .next t → t.err = 0 →
    ∃ u, exec .dec t = .next u ∧ u.i = t.nd ∧ u.x.toNat = t.x.toNat / 2 ^ (32 - 3 * t.nd.toNat) ∧
      u.y.toNat = t.y.toNat / 2 ^ (32 - 3 * t.nd.toNat) ∧ u.zoom = s.zoom ∧ u.cbuf = t.cbuf ∧ u.clen = t.clen

/-- The round-trip error bounds of the derived rule R205 for a nominal input that the quantizer does not wrap, said of
the quantizer's integer (below `2^32`): R205's own wording of "does not wrap" is one binary64 value too wide (log
entry 7). -/
def Obligations.RoundTripError : Prop :=
  ∀ (s t u : State) (rx ry : ℤ), s.err = 0 → s.cbuf.wf = true → isFinite s.lon = true → isFinite s.lat = true →
    |coord s.lon| ≤ 180 → |coord s.lat| ≤ 90 →
    quantInt s.lon 180 90 = some rx → rx < 2 ^ 32 → quantInt s.lat 90 45 = some ry → ry < 2 ^ 32 →
    exec .enc s = .next t → t.err = 0 → 1 ≤ t.nd.toNat → exec .dec t = .next u →
    -(1 / 2 + 1 / 2 ^ 19) * (360 / 2 ^ 32) ≤ coord s.lon - coord u.lon ∧
    coord s.lon - coord u.lon < 360 / 2 ^ (3 * t.nd.toNat) ∧
    -(1 / 2 + 1 / 2 ^ 19) * (180 / 2 ^ 32) ≤ coord s.lat - coord u.lat ∧
    coord s.lat - coord u.lat < 180 / 2 ^ (3 * t.nd.toNat)

/-- The derived rule R205 word for word, with "does not wrap" read as its parenthesis says. It is expected to FAIL:
the longitude just below `180 - 90/2^31` satisfies the parenthesis, but its sum with 180 is a tie that `RN` takes up,
and it wraps (log entry 7). -/
def Obligations.RoundTripErrorAsWorded : Prop :=
  ∀ s t u : State, s.err = 0 → s.cbuf.wf = true → isFinite s.lon = true → isFinite s.lat = true →
    -180 ≤ coord s.lon → coord s.lon < 180 - 90 / 2 ^ 31 → -90 ≤ coord s.lat → coord s.lat < 90 - 45 / 2 ^ 31 →
    exec .enc s = .next t → t.err = 0 → 1 ≤ t.nd.toNat → exec .dec t = .next u →
    -(1 / 2 + 1 / 2 ^ 19) * (360 / 2 ^ 32) ≤ coord s.lon - coord u.lon ∧
    coord s.lon - coord u.lon < 360 / 2 ^ (3 * t.nd.toNat) ∧
    -(1 / 2 + 1 / 2 ^ 19) * (180 / 2 ^ 32) ≤ coord s.lat - coord u.lat ∧
    coord s.lat - coord u.lat < 180 / 2 ^ (3 * t.nd.toNat)

/-- Monotonic precision (derived rule R206) on the nominal domain: one zoom level more never increases the absolute
error of the decoded coordinate. -/
def Obligations.MonotonicPrecision : Prop :=
  ∀ s s' t t' u u' : State, s.err = 0 → s'.err = 0 → s.cbuf.wf = true → s'.cbuf.wf = true →
    isFinite s.lon = true → isFinite s.lat = true → |coord s.lon| ≤ 180 → |coord s.lat| ≤ 90 →
    s'.lon = s.lon → s'.lat = s.lat → s'.zoom.toInt = s.zoom.toInt + 1 →
    exec .enc s = .next t → t.err = 0 → exec .enc s' = .next t' → t'.err = 0 →
    exec .dec t = .next u → exec .dec t' = .next u' →
    |coord s.lon - coord u'.lon| ≤ |coord s.lon - coord u.lon| ∧
    |coord s.lat - coord u'.lat| ≤ |coord s.lat - coord u.lat|

/-! ### The whole machine -/

/-- The invariant holds after reset (R25, R31, R36). -/
def Obligations.InvariantHoldsAtReset : Prop := State.reset.inv = true

/-- Every step keeps the invariant: `ND <= 10`, `NP <= 2`, `ND + NP <= 12` (R25), `ERR` a code some rule produces (R31),
bits 31 and 30 of both tiers 0 (R24), and the code buffer in canonical form. -/
def Obligations.StepKeepsInvariant : Prop :=
  ∀ s t : State, s.inv = true → step s = .next t → t.inv = true

/-- Every step completes, and so does every command (R253, R259): in a state of the invariant none of them stops the
model, so no command accesses the buffer outside 0..14 (R56). In any other state one command can stop, `PADC` at index
15, which is no cell (R50); that it stops there is the model's choice (log entry 5). -/
def Obligations.EveryStepCompletes : Prop :=
  (∀ s : State, s.inv = true → (∃ t, step s = .next t) ∧ ∀ i, ∃ t, exec i s = .next t) ∧
  ∀ (s : State) (i : Instr), (∀ t, exec i s ≠ .next t) ↔
    (i = .padc ∧ s.err = 0 ∧ s.i = 15 ∧ 15 < s.nd.toNat + s.np.toNat)

/-- Which commands may write which registers (R20, the column "written by commands"; R30 for `STOP`): every other
command leaves the register as it was. That no command touches the host's pending actions is no rule of the spec: the
field is the model's own (DESIGN CHOICE, log entry 1). -/
def Obligations.RegistersWrittenByCommand : Prop :=
  ∀ (i : Instr) (s t : State), exec i s = .next t →
    (i ∉ [Instr.dqn, .dec] → t.lat = s.lat ∧ t.lon = s.lon) ∧
    (i ∉ [Instr.din, .acc, .zadj, .dec] → t.zoom = s.zoom) ∧
    (i ∉ [Instr.qnt, .din, .acc, .enc, .dec] → t.x = s.x ∧ t.y = s.y) ∧
    (i ∉ [Instr.mrt, .enc] → t.c1 = s.c1 ∧ t.c2 = s.c2) ∧
    (i ∉ [Instr.len, .enc] → t.nd = s.nd ∧ t.np = s.np) ∧
    (i ∉ [Instr.ein, .emit, .padc, .din, .acc, .enc, .dec] → t.i = s.i) ∧
    (i ∉ [Instr.ein, .emit, .padc, .enc] → t.clen = s.clen) ∧
    (i ∉ [Instr.emit, .padc, .enc] → t.cbuf = s.cbuf) ∧
    (i ∉ [Instr.din, .acc, .dec] → t.stop = s.stop) ∧
    (i ∉ [Instr.qnt, .len, .emit, .padc, .enc] → t.err = s.err) ∧
    t.host = s.host
end

