-- ==== Sys2Proof/Laws/Memory.lean ====
section
/-! SUPPORT. The code buffer: a read gives the latest write, a write changes one cell (20_memory.md R57, R60), and every
operation keeps the canonical form. -/

namespace Sys2Proof.Machine

@[simp] theorem Memory.cellAt_nil (k : Nat) : Memory.cellAt [] k = Config.cellReset := rfl

@[simp] theorem Memory.cellAt_cons (a : Nat) (v : Byte) (m : Memory) (k : Nat) :
    Memory.cellAt ((a, v) :: m) k = if a = k then v else Memory.cellAt m k := rfl

@[simp] theorem Memory.wf_nil : Memory.wf [] = true := rfl

theorem Memory.wfFrom_cons (lo a : Nat) (v : Byte) (m : Memory) :
    Memory.wfFrom lo ((a, v) :: m) = true ↔
      lo ≤ a ∧ a < Config.cap ∧ v ≠ Config.cellReset ∧ Memory.wfFrom (a + 1) m = true := by
  simp [Memory.wfFrom, and_assoc]

/-- A canonical form from a higher index is one from a lower index. -/
theorem Memory.wfFrom_mono {lo lo' : Nat} {m : Memory} (h : lo' ≤ lo) (hm : m.wfFrom lo = true) :
    m.wfFrom lo' = true := by
  cases m with
  | nil => rfl
  | cons e m =>
    obtain ⟨a, v⟩ := e
    rw [wfFrom_cons] at hm ⊢
    exact ⟨h.trans hm.1, hm.2⟩

/-- Below its first index a canonical form lists nothing. -/
theorem Memory.cellAt_below {lo k : Nat} {m : Memory} (hm : m.wfFrom lo = true) (hk : k < lo) :
    m.cellAt k = Config.cellReset := by
  induction m generalizing lo with
  | nil => rfl
  | cons e m ih =>
    obtain ⟨a, v⟩ := e
    rw [wfFrom_cons] at hm
    rw [cellAt_cons, if_neg (by omega)]
    exact ih hm.2.2.2 (by omega)

/-- Everything a write does: the written cell holds the byte and every other cell is as before. -/
theorem Memory.cellAt_put {lo : Nat} {m : Memory} (hm : m.wfFrom lo = true) (k : Nat) (v : Byte) (j : Nat) :
    (m.put k v).cellAt j = if j = k then v else m.cellAt j := by
  induction m generalizing lo with
  | nil =>
    rw [put]
    by_cases hj : j = k
    · subst hj
      by_cases hv : v = Config.cellReset
      · rw [if_pos hv, if_pos rfl, hv]; rfl
      · rw [if_neg hv, if_pos rfl, cellAt_cons, if_pos rfl]
    · rw [if_neg hj]
      by_cases hv : v = Config.cellReset
      · rw [if_pos hv]
      · rw [if_neg hv, cellAt_cons, if_neg (Ne.symm hj)]
  | cons e m ih =>
    obtain ⟨a, w⟩ := e
    rw [wfFrom_cons] at hm
    have hrest := ih hm.2.2.2
    rw [put]
    by_cases hka : k < a
    · have hbelow : Memory.cellAt m k = Config.cellReset := cellAt_below hm.2.2.2 (by omega)
      by_cases hv : v = Config.cellReset
      · rw [if_pos hka, if_pos hv, cellAt_cons]
        by_cases hj : j = k
        · subst hj; rw [if_neg (by omega), if_pos rfl, hbelow, hv]
        · rw [if_neg hj]
      · rw [if_pos hka, if_neg hv, cellAt_cons, cellAt_cons]
        by_cases hj : j = k
        · subst hj; rw [if_pos rfl]
        · rw [if_neg (Ne.symm hj), if_neg hj]
    · rw [if_neg hka]
      by_cases hk : k = a
      · subst hk
        have hbelow : Memory.cellAt m k = Config.cellReset := cellAt_below hm.2.2.2 (by omega)
        rw [if_pos rfl]
        by_cases hv : v = Config.cellReset
        · rw [if_pos hv, cellAt_cons]
          by_cases hj : j = k
          · subst hj; rw [if_pos rfl, hbelow, hv]
          · rw [if_neg hj, if_neg (Ne.symm hj)]
        · rw [if_neg hv, cellAt_cons, cellAt_cons]
          by_cases hj : j = k
          · subst hj; rw [if_pos rfl, if_pos rfl]
          · rw [if_neg (Ne.symm hj), if_neg hj, if_neg (Ne.symm hj)]
      · rw [if_neg hk, cellAt_cons, cellAt_cons, hrest]
        by_cases hj : a = j
        · subst hj; rw [if_pos rfl, if_neg (Ne.symm hk), if_pos rfl]
        · rw [if_neg hj, if_neg hj]

/-- A write inside the buffer keeps the canonical form, from any index at or below the written one. -/
theorem Memory.wfFrom_put {lo : Nat} {m : Memory} (hm : m.wfFrom lo = true) {k : Nat} (hlo : lo ≤ k)
    (hk : k < Config.cap) (v : Byte) : (m.put k v).wfFrom lo = true := by
  induction m generalizing lo with
  | nil =>
    by_cases hv : v = Config.cellReset
    · simp [put, hv, wfFrom]
    · rw [put, if_neg hv, wfFrom_cons]; exact ⟨hlo, hk, hv, rfl⟩
  | cons e m ih =>
    obtain ⟨a, w⟩ := e
    have hm' := hm
    rw [wfFrom_cons] at hm
    obtain ⟨h1, h2, h3, h4⟩ := hm
    rw [put]
    by_cases hka : k < a
    · by_cases hv : v = Config.cellReset
      · rw [if_pos hka, if_pos hv]; exact hm'
      · rw [if_pos hka, if_neg hv, wfFrom_cons]
        exact ⟨hlo, hk, hv, (wfFrom_cons ..).2 ⟨by omega, h2, h3, h4⟩⟩
    · rw [if_neg hka]
      by_cases hk' : k = a
      · subst hk'
        rw [if_pos rfl]
        by_cases hv : v = Config.cellReset
        · rw [if_pos hv]; exact wfFrom_mono (by omega) h4
        · rw [if_neg hv, wfFrom_cons]; exact ⟨h1, h2, hv, h4⟩
      · rw [if_neg hk', wfFrom_cons]
        exact ⟨h1, h2, h3, ih h4 (by omega)⟩

/-- A write inside the buffer keeps the canonical form. -/
theorem Memory.wf_put {m : Memory} (hm : m.wf = true) {k : Nat} (hk : k < Config.cap) (v : Byte) :
    (m.put k v).wf = true := wfFrom_put hm (Nat.zero_le k) hk v

/-- Equal buffers are equal data: two canonical forms that read alike are one list. -/
theorem Memory.wfFrom_ext {lo : Nat} {m m' : Memory} (hm : m.wfFrom lo = true) (hm' : m'.wfFrom lo = true)
    (h : ∀ k, m.cellAt k = m'.cellAt k) : m = m' := by
  induction m generalizing lo m' with
  | nil =>
    cases m' with
    | nil => rfl
    | cons e m' =>
      obtain ⟨a, v⟩ := e
      rw [wfFrom_cons] at hm'
      have := h a
      rw [cellAt_nil, cellAt_cons, if_pos rfl] at this
      exact absurd this.symm hm'.2.2.1
  | cons e m ih =>
    obtain ⟨a, v⟩ := e
    have hm0 := hm
    rw [wfFrom_cons] at hm
    cases m' with
    | nil =>
      have := h a
      rw [cellAt_nil, cellAt_cons, if_pos rfl] at this
      exact absurd this hm.2.2.1
    | cons e' m' =>
      obtain ⟨b, w⟩ := e'
      have hm1 := hm'
      rw [wfFrom_cons] at hm'
      have hab : a = b := by
        rcases Nat.lt_trichotomy a b with hlt | heq | hgt
        · have := h a
          rw [cellAt_cons, if_pos rfl, cellAt_cons, if_neg (by omega), cellAt_below hm'.2.2.2 (by omega)] at this
          exact absurd this hm.2.2.1
        · exact heq
        · have := h b
          rw [cellAt_cons, if_neg (by omega), cellAt_below hm.2.2.2 (by omega), cellAt_cons, if_pos rfl] at this
          exact absurd this.symm hm'.2.2.1
      subst hab
      have hvw : v = w := by simpa using h a
      subst hvw
      refine congrArg _ (ih hm.2.2.2 hm'.2.2.2 fun k => ?_)
      by_cases hk : a = k
      · subst hk
        rw [cellAt_below hm.2.2.2 (by omega), cellAt_below hm'.2.2.2 (by omega)]
      · simpa [hk] using h k

@[inherit_doc Memory.wfFrom_ext]
theorem Memory.wf_ext {m m' : Memory} (hm : m.wf = true) (hm' : m'.wf = true)
    (h : ∀ k, m.cellAt k = m'.cellAt k) : m = m' := wfFrom_ext hm hm' h

end Sys2Proof.Machine
end

