-- ==== Sys2Proof/Laws/State.lean ====
section
/-! SUPPORT. What each register write leaves in each field: a write to one register changes no other (R35). -/

namespace Sys2Proof.Machine

section withCell
variable (s : State) (k : Nat) (v : Byte)

@[simp] theorem State.withCell_lat : (s.withCell k v).lat = s.lat := rfl
@[simp] theorem State.withCell_lon : (s.withCell k v).lon = s.lon := rfl
@[simp] theorem State.withCell_zoom : (s.withCell k v).zoom = s.zoom := rfl
@[simp] theorem State.withCell_x : (s.withCell k v).x = s.x := rfl
@[simp] theorem State.withCell_y : (s.withCell k v).y = s.y := rfl
@[simp] theorem State.withCell_c1 : (s.withCell k v).c1 = s.c1 := rfl
@[simp] theorem State.withCell_c2 : (s.withCell k v).c2 = s.c2 := rfl
@[simp] theorem State.withCell_nd : (s.withCell k v).nd = s.nd := rfl
@[simp] theorem State.withCell_np : (s.withCell k v).np = s.np := rfl
@[simp] theorem State.withCell_i : (s.withCell k v).i = s.i := rfl
@[simp] theorem State.withCell_clen : (s.withCell k v).clen = s.clen := rfl
@[simp] theorem State.withCell_cbuf : (s.withCell k v).cbuf = s.cbuf.put k v := rfl
@[simp] theorem State.withCell_stop : (s.withCell k v).stop = s.stop := rfl
@[simp] theorem State.withCell_err : (s.withCell k v).err = s.err := rfl
@[simp] theorem State.withCell_host : (s.withCell k v).host = s.host := rfl

end withCell

section withCoord
variable (s : State) (lo la : Pattern)

@[simp] theorem State.withCoord_lat : (s.withCoord lo la).lat = la := rfl
@[simp] theorem State.withCoord_lon : (s.withCoord lo la).lon = lo := rfl
@[simp] theorem State.withCoord_zoom : (s.withCoord lo la).zoom = s.zoom := rfl
@[simp] theorem State.withCoord_x : (s.withCoord lo la).x = s.x := rfl
@[simp] theorem State.withCoord_y : (s.withCoord lo la).y = s.y := rfl
@[simp] theorem State.withCoord_c1 : (s.withCoord lo la).c1 = s.c1 := rfl
@[simp] theorem State.withCoord_c2 : (s.withCoord lo la).c2 = s.c2 := rfl
@[simp] theorem State.withCoord_nd : (s.withCoord lo la).nd = s.nd := rfl
@[simp] theorem State.withCoord_np : (s.withCoord lo la).np = s.np := rfl
@[simp] theorem State.withCoord_i : (s.withCoord lo la).i = s.i := rfl
@[simp] theorem State.withCoord_clen : (s.withCoord lo la).clen = s.clen := rfl
@[simp] theorem State.withCoord_cbuf : (s.withCoord lo la).cbuf = s.cbuf := rfl
@[simp] theorem State.withCoord_stop : (s.withCoord lo la).stop = s.stop := rfl
@[simp] theorem State.withCoord_err : (s.withCoord lo la).err = s.err := rfl
@[simp] theorem State.withCoord_host : (s.withCoord lo la).host = s.host := rfl

end withCoord

section withPoint
variable (s : State) (a b : Grid)

@[simp] theorem State.withPoint_lat : (s.withPoint a b).lat = s.lat := rfl
@[simp] theorem State.withPoint_lon : (s.withPoint a b).lon = s.lon := rfl
@[simp] theorem State.withPoint_zoom : (s.withPoint a b).zoom = s.zoom := rfl
@[simp] theorem State.withPoint_x : (s.withPoint a b).x = a := rfl
@[simp] theorem State.withPoint_y : (s.withPoint a b).y = b := rfl
@[simp] theorem State.withPoint_c1 : (s.withPoint a b).c1 = s.c1 := rfl
@[simp] theorem State.withPoint_c2 : (s.withPoint a b).c2 = s.c2 := rfl
@[simp] theorem State.withPoint_nd : (s.withPoint a b).nd = s.nd := rfl
@[simp] theorem State.withPoint_np : (s.withPoint a b).np = s.np := rfl
@[simp] theorem State.withPoint_i : (s.withPoint a b).i = s.i := rfl
@[simp] theorem State.withPoint_clen : (s.withPoint a b).clen = s.clen := rfl
@[simp] theorem State.withPoint_cbuf : (s.withPoint a b).cbuf = s.cbuf := rfl
@[simp] theorem State.withPoint_stop : (s.withPoint a b).stop = s.stop := rfl
@[simp] theorem State.withPoint_err : (s.withPoint a b).err = s.err := rfl
@[simp] theorem State.withPoint_host : (s.withPoint a b).host = s.host := rfl

end withPoint

section withTiers
variable (s : State) (a b : Tier)

@[simp] theorem State.withTiers_lat : (s.withTiers a b).lat = s.lat := rfl
@[simp] theorem State.withTiers_lon : (s.withTiers a b).lon = s.lon := rfl
@[simp] theorem State.withTiers_zoom : (s.withTiers a b).zoom = s.zoom := rfl
@[simp] theorem State.withTiers_x : (s.withTiers a b).x = s.x := rfl
@[simp] theorem State.withTiers_y : (s.withTiers a b).y = s.y := rfl
@[simp] theorem State.withTiers_c1 : (s.withTiers a b).c1 = a := rfl
@[simp] theorem State.withTiers_c2 : (s.withTiers a b).c2 = b := rfl
@[simp] theorem State.withTiers_nd : (s.withTiers a b).nd = s.nd := rfl
@[simp] theorem State.withTiers_np : (s.withTiers a b).np = s.np := rfl
@[simp] theorem State.withTiers_i : (s.withTiers a b).i = s.i := rfl
@[simp] theorem State.withTiers_clen : (s.withTiers a b).clen = s.clen := rfl
@[simp] theorem State.withTiers_cbuf : (s.withTiers a b).cbuf = s.cbuf := rfl
@[simp] theorem State.withTiers_stop : (s.withTiers a b).stop = s.stop := rfl
@[simp] theorem State.withTiers_err : (s.withTiers a b).err = s.err := rfl
@[simp] theorem State.withTiers_host : (s.withTiers a b).host = s.host := rfl

end withTiers

section withCounts
variable (s : State) (a : BitVec 4) (b : BitVec 2)

@[simp] theorem State.withCounts_lat : (s.withCounts a b).lat = s.lat := rfl
@[simp] theorem State.withCounts_lon : (s.withCounts a b).lon = s.lon := rfl
@[simp] theorem State.withCounts_zoom : (s.withCounts a b).zoom = s.zoom := rfl
@[simp] theorem State.withCounts_x : (s.withCounts a b).x = s.x := rfl
@[simp] theorem State.withCounts_y : (s.withCounts a b).y = s.y := rfl
@[simp] theorem State.withCounts_c1 : (s.withCounts a b).c1 = s.c1 := rfl
@[simp] theorem State.withCounts_c2 : (s.withCounts a b).c2 = s.c2 := rfl
@[simp] theorem State.withCounts_nd : (s.withCounts a b).nd = a := rfl
@[simp] theorem State.withCounts_np : (s.withCounts a b).np = b := rfl
@[simp] theorem State.withCounts_i : (s.withCounts a b).i = s.i := rfl
@[simp] theorem State.withCounts_clen : (s.withCounts a b).clen = s.clen := rfl
@[simp] theorem State.withCounts_cbuf : (s.withCounts a b).cbuf = s.cbuf := rfl
@[simp] theorem State.withCounts_stop : (s.withCounts a b).stop = s.stop := rfl
@[simp] theorem State.withCounts_err : (s.withCounts a b).err = s.err := rfl
@[simp] theorem State.withCounts_host : (s.withCounts a b).host = s.host := rfl

end withCounts

section withZoom
variable (s : State) (z : BitVec 8)

@[simp] theorem State.withZoom_lat : (s.withZoom z).lat = s.lat := rfl
@[simp] theorem State.withZoom_lon : (s.withZoom z).lon = s.lon := rfl
@[simp] theorem State.withZoom_zoom : (s.withZoom z).zoom = z := rfl
@[simp] theorem State.withZoom_x : (s.withZoom z).x = s.x := rfl
@[simp] theorem State.withZoom_y : (s.withZoom z).y = s.y := rfl
@[simp] theorem State.withZoom_c1 : (s.withZoom z).c1 = s.c1 := rfl
@[simp] theorem State.withZoom_c2 : (s.withZoom z).c2 = s.c2 := rfl
@[simp] theorem State.withZoom_nd : (s.withZoom z).nd = s.nd := rfl
@[simp] theorem State.withZoom_np : (s.withZoom z).np = s.np := rfl
@[simp] theorem State.withZoom_i : (s.withZoom z).i = s.i := rfl
@[simp] theorem State.withZoom_clen : (s.withZoom z).clen = s.clen := rfl
@[simp] theorem State.withZoom_cbuf : (s.withZoom z).cbuf = s.cbuf := rfl
@[simp] theorem State.withZoom_stop : (s.withZoom z).stop = s.stop := rfl
@[simp] theorem State.withZoom_err : (s.withZoom z).err = s.err := rfl
@[simp] theorem State.withZoom_host : (s.withZoom z).host = s.host := rfl

end withZoom

section withIndex
variable (s : State) (a : BitVec 4)

@[simp] theorem State.withIndex_lat : (s.withIndex a).lat = s.lat := rfl
@[simp] theorem State.withIndex_lon : (s.withIndex a).lon = s.lon := rfl
@[simp] theorem State.withIndex_zoom : (s.withIndex a).zoom = s.zoom := rfl
@[simp] theorem State.withIndex_x : (s.withIndex a).x = s.x := rfl
@[simp] theorem State.withIndex_y : (s.withIndex a).y = s.y := rfl
@[simp] theorem State.withIndex_c1 : (s.withIndex a).c1 = s.c1 := rfl
@[simp] theorem State.withIndex_c2 : (s.withIndex a).c2 = s.c2 := rfl
@[simp] theorem State.withIndex_nd : (s.withIndex a).nd = s.nd := rfl
@[simp] theorem State.withIndex_np : (s.withIndex a).np = s.np := rfl
@[simp] theorem State.withIndex_i : (s.withIndex a).i = a := rfl
@[simp] theorem State.withIndex_clen : (s.withIndex a).clen = s.clen := rfl
@[simp] theorem State.withIndex_cbuf : (s.withIndex a).cbuf = s.cbuf := rfl
@[simp] theorem State.withIndex_stop : (s.withIndex a).stop = s.stop := rfl
@[simp] theorem State.withIndex_err : (s.withIndex a).err = s.err := rfl
@[simp] theorem State.withIndex_host : (s.withIndex a).host = s.host := rfl

end withIndex

section withLength
variable (s : State) (a : BitVec 4)

@[simp] theorem State.withLength_lat : (s.withLength a).lat = s.lat := rfl
@[simp] theorem State.withLength_lon : (s.withLength a).lon = s.lon := rfl
@[simp] theorem State.withLength_zoom : (s.withLength a).zoom = s.zoom := rfl
@[simp] theorem State.withLength_x : (s.withLength a).x = s.x := rfl
@[simp] theorem State.withLength_y : (s.withLength a).y = s.y := rfl
@[simp] theorem State.withLength_c1 : (s.withLength a).c1 = s.c1 := rfl
@[simp] theorem State.withLength_c2 : (s.withLength a).c2 = s.c2 := rfl
@[simp] theorem State.withLength_nd : (s.withLength a).nd = s.nd := rfl
@[simp] theorem State.withLength_np : (s.withLength a).np = s.np := rfl
@[simp] theorem State.withLength_i : (s.withLength a).i = s.i := rfl
@[simp] theorem State.withLength_clen : (s.withLength a).clen = a := rfl
@[simp] theorem State.withLength_cbuf : (s.withLength a).cbuf = s.cbuf := rfl
@[simp] theorem State.withLength_stop : (s.withLength a).stop = s.stop := rfl
@[simp] theorem State.withLength_err : (s.withLength a).err = s.err := rfl
@[simp] theorem State.withLength_host : (s.withLength a).host = s.host := rfl

end withLength

section withStop
variable (s : State) (b : Bool)

@[simp] theorem State.withStop_lat : (s.withStop b).lat = s.lat := rfl
@[simp] theorem State.withStop_lon : (s.withStop b).lon = s.lon := rfl
@[simp] theorem State.withStop_zoom : (s.withStop b).zoom = s.zoom := rfl
@[simp] theorem State.withStop_x : (s.withStop b).x = s.x := rfl
@[simp] theorem State.withStop_y : (s.withStop b).y = s.y := rfl
@[simp] theorem State.withStop_c1 : (s.withStop b).c1 = s.c1 := rfl
@[simp] theorem State.withStop_c2 : (s.withStop b).c2 = s.c2 := rfl
@[simp] theorem State.withStop_nd : (s.withStop b).nd = s.nd := rfl
@[simp] theorem State.withStop_np : (s.withStop b).np = s.np := rfl
@[simp] theorem State.withStop_i : (s.withStop b).i = s.i := rfl
@[simp] theorem State.withStop_clen : (s.withStop b).clen = s.clen := rfl
@[simp] theorem State.withStop_cbuf : (s.withStop b).cbuf = s.cbuf := rfl
@[simp] theorem State.withStop_stop : (s.withStop b).stop = b := rfl
@[simp] theorem State.withStop_err : (s.withStop b).err = s.err := rfl
@[simp] theorem State.withStop_host : (s.withStop b).host = s.host := rfl

end withStop

section withErr
variable (s : State) (e : BitVec 3)

@[simp] theorem State.withErr_lat : (s.withErr e).lat = s.lat := rfl
@[simp] theorem State.withErr_lon : (s.withErr e).lon = s.lon := rfl
@[simp] theorem State.withErr_zoom : (s.withErr e).zoom = s.zoom := rfl
@[simp] theorem State.withErr_x : (s.withErr e).x = s.x := rfl
@[simp] theorem State.withErr_y : (s.withErr e).y = s.y := rfl
@[simp] theorem State.withErr_c1 : (s.withErr e).c1 = s.c1 := rfl
@[simp] theorem State.withErr_c2 : (s.withErr e).c2 = s.c2 := rfl
@[simp] theorem State.withErr_nd : (s.withErr e).nd = s.nd := rfl
@[simp] theorem State.withErr_np : (s.withErr e).np = s.np := rfl
@[simp] theorem State.withErr_i : (s.withErr e).i = s.i := rfl
@[simp] theorem State.withErr_clen : (s.withErr e).clen = s.clen := rfl
@[simp] theorem State.withErr_cbuf : (s.withErr e).cbuf = s.cbuf := rfl
@[simp] theorem State.withErr_stop : (s.withErr e).stop = s.stop := rfl
@[simp] theorem State.withErr_err : (s.withErr e).err = e := rfl
@[simp] theorem State.withErr_host : (s.withErr e).host = s.host := rfl

end withErr

section withHost
variable (s : State) (l : List HostAction)

@[simp] theorem State.withHost_lat : (s.withHost l).lat = s.lat := rfl
@[simp] theorem State.withHost_lon : (s.withHost l).lon = s.lon := rfl
@[simp] theorem State.withHost_zoom : (s.withHost l).zoom = s.zoom := rfl
@[simp] theorem State.withHost_x : (s.withHost l).x = s.x := rfl
@[simp] theorem State.withHost_y : (s.withHost l).y = s.y := rfl
@[simp] theorem State.withHost_c1 : (s.withHost l).c1 = s.c1 := rfl
@[simp] theorem State.withHost_c2 : (s.withHost l).c2 = s.c2 := rfl
@[simp] theorem State.withHost_nd : (s.withHost l).nd = s.nd := rfl
@[simp] theorem State.withHost_np : (s.withHost l).np = s.np := rfl
@[simp] theorem State.withHost_i : (s.withHost l).i = s.i := rfl
@[simp] theorem State.withHost_clen : (s.withHost l).clen = s.clen := rfl
@[simp] theorem State.withHost_cbuf : (s.withHost l).cbuf = s.cbuf := rfl
@[simp] theorem State.withHost_stop : (s.withHost l).stop = s.stop := rfl
@[simp] theorem State.withHost_err : (s.withHost l).err = s.err := rfl
@[simp] theorem State.withHost_host : (s.withHost l).host = l := rfl

end withHost

/-- Replacing the pending actions twice is replacing them once. -/
@[simp] theorem State.withHost_withHost (s : State) (l l' : List HostAction) : (s.withHost l).withHost l' = s.withHost l' := rfl

/-- Putting a state's own pending actions back changes nothing. -/
@[simp] theorem State.withHost_self (s : State) : s.withHost s.host = s := rfl

end Sys2Proof.Machine
end

