-- ==== Sys2Proof/Laws/Ops.lean ====
section
/-! SUPPORT. What each shared operation can do, said once. -/

namespace Sys2Proof.Machine

/-- `memRead` hands over the cell's byte, or faults past the buffer. -/
theorem memRead_eq (k : Nat) (s : State) (use : Byte → Result) :
    (k < Config.cap ∧ memRead k s use = use (s.cbuf.cellAt k)) ∨
      (Config.cap ≤ k ∧ memRead k s use = .fault .noSuchCell) := by
  by_cases h : k < Config.cap
  · exact .inl ⟨h, by simp [memRead, h]⟩
  · exact .inr ⟨by omega, by simp [memRead, h]⟩

/-- `memWrite` goes on with the byte stored, or faults past the buffer. -/
theorem memWrite_eq (k : Nat) (v : Byte) (s : State) (next : State → Result) :
    (k < Config.cap ∧ memWrite k v s next = next (s.withCell k v)) ∨
      (Config.cap ≤ k ∧ memWrite k v s next = .fault .noSuchCell) := by
  by_cases h : k < Config.cap
  · exact .inl ⟨h, by simp [memWrite, h]⟩
  · exact .inr ⟨by omega, by simp [memWrite, h]⟩

/-- A command on a running core acts. -/
theorem whenRunning_running {s : State} (h : s.err = 0) (act : State → Result) : whenRunning s act = act s := by
  simp [whenRunning, h]

/-- A command on a faulted core does nothing (R226). -/
theorem whenRunning_faulted {s : State} (h : s.err ≠ 0) (act : State → Result) : whenRunning s act = .next s := if_neg h

/-- If a guarded command answers `t`, either the core was faulted and `t` is the state before, or it acted. -/
theorem whenRunning_next {s t : State} {act : State → Result} (h : whenRunning s act = .next t) :
    (s.err ≠ 0 ∧ t = s) ∨ (s.err = 0 ∧ act s = .next t) := by
  by_cases he : s.err = 0
  · exact .inr ⟨he, by rwa [whenRunning_running he] at h⟩
  · rw [whenRunning_faulted he] at h
    exact .inl ⟨he, (Host.Outcome.next.inj h).symm⟩

/-- If a sequence answers `t`, its first step answered a state from which the rest led to `t`, or raised the fault `t`
holds. -/
theorem andThen_next {r : Result} {f : State → Result} {t : State} (h : andThen r f = .next t) :
    ∃ s, r = .next s ∧ ((s.err = 0 ∧ f s = .next t) ∨ (s.err ≠ 0 ∧ t = s)) := by
  cases r with
  | next s =>
    refine ⟨s, rfl, ?_⟩
    by_cases he : s.err = 0
    · exact .inl ⟨he, by simpa [andThen, he] using h⟩
    · exact .inr ⟨he, (Host.Outcome.next.inj ((if_neg he).symm.trans h)).symm⟩
  | fault r => simp [andThen] at h
  | refused r => simp [andThen] at h

@[simp] theorem andThen_of_running {s : State} (h : s.err = 0) (f : State → Result) :
    andThen (.next s) f = f s := by simp [andThen, h]

@[simp] theorem andThen_of_faulted {s : State} (h : s.err ≠ 0) (f : State → Result) :
    andThen (.next s) f = .next s := if_neg h

/-- One turn of a loop with fuel left. -/
theorem repeatWhile_succ (n : Nat) (cond : State → Bool) (body : State → Result) (s : State) :
    repeatWhile (n + 1) cond body s = if cond s then andThen (body s) (repeatWhile n cond body) else .next s := rfl

/-- A loop whose condition is false is over. -/
theorem repeatWhile_done {cond : State → Bool} {s : State} (h : cond s = false) (n : Nat) (body : State → Result) :
    repeatWhile n cond body s = .next s := by
  cases n with
  | zero => rfl
  | succ n => simp [repeatWhile, h]

/-- A loop keeps what each of its turns keeps. -/
theorem repeatWhile_keeps {P : State → Prop} {cond : State → Bool} {body : State → Result}
    (hbody : ∀ s t, P s → body s = .next t → P t) (n : Nat) {s t : State} (hs : P s)
    (h : repeatWhile n cond body s = .next t) : P t := by
  induction n generalizing s with
  | zero => exact Host.Outcome.next.inj h ▸ hs
  | succ n ih =>
    rw [repeatWhile_succ] at h
    split at h
    · obtain ⟨u, hu, ⟨_, hrest⟩ | ⟨_, rfl⟩⟩ := andThen_next h
      · exact ih (hbody _ _ hs hu) hrest
      · exact hbody _ _ hs hu
    · exact Host.Outcome.next.inj h ▸ hs

/-- Raising a fault on a running core writes its code (R225). -/
theorem raise_running {s : State} (h : s.err = 0) (f : FaultCode) : raise f s = s.withErr f.code := by
  simp [raise, h]

/-- Raising a fault on a faulted core changes nothing (R225, R226). -/
theorem raise_faulted {s : State} (h : s.err ≠ 0) (f : FaultCode) : raise f s = s := if_neg h

/-- No fault code is 0. -/
theorem FaultCode.code_ne_zero (f : FaultCode) : f.code ≠ 0 := by cases f <;> decide

/-- The last thing `EMIT` and `PADC` do, at an index the buffer has. -/
theorem appendChar_of_lt {s : State} (h : s.i.toNat < Config.cap) (c : Byte) :
    appendChar c s = .next (((s.withCell s.i.toNat c).withIndex (s.i + 1)).withLength (s.i + 1)) := by
  simp [appendChar, memWrite, h]

/-- A digit index below `ND` is an index the buffer has, whatever `ND` holds. -/
theorem digitsOwed_lt_cap {s : State} (h : digitsOwed s = true) : s.i.toNat < Config.cap := by
  have h1 : s.i.toNat < s.nd.toNat := by simpa [digitsOwed] using h
  have := s.nd.isLt
  simp only [Config.cap]; omega

/-- A character the string has is a cell the buffer has, whatever `CLEN` holds. -/
theorem hasCharAt_lt_cap {s : State} {n : Nat} (h : hasCharAt s n = true) : s.i.toNat + n < Config.cap := by
  have h1 : s.i.toNat + n < s.clen.toNat := by simpa [hasCharAt] using h
  have := s.clen.isLt
  simp only [Config.cap]; omega

end Sys2Proof.Machine
end

