-- ==== Sys2Proof/Laws/PerInstr.lean ====
section
/-! SUPPORT. Statements about every command as syntax, one lemma per constructor. -/

/-- The word of a command has a unit that exists and a function that unit has (30_encoding.md R70, R71). -/
def Sys2Proof.Laws.WordShape.Statement (i : Sys2Proof.Instr) : Prop :=
  (Sys2Proof.CommandFields.ofWord (Sys2Proof.encode i)).wellFormed = true

namespace Sys2Proof.Laws.WordShape

theorem qnt : Statement .qnt := rfl
theorem dqn : Statement .dqn := rfl
theorem mrt : Statement .mrt := rfl
theorem enc : Statement .enc := rfl
theorem len : Statement .len := rfl
theorem ein : Statement .ein := rfl
theorem emit : Statement .emit := rfl
theorem padc : Statement .padc := rfl
theorem dec : Statement .dec := rfl
theorem din : Statement .din := rfl
theorem acc : Statement .acc := rfl
theorem zadj : Statement .zadj := rfl

end Sys2Proof.Laws.WordShape
end

