-- ==== Sys2Proof/Laws/Safety.lean ====
section
/-! SUPPORT. The vocabulary of the claims, in forms that evaluate. -/

namespace Sys2Proof.Machine

/-- A rejected coordinate, decided by evaluation. -/
theorem coordRejected_iff (b : Pattern) (off : Nat) :
    coordRejected b off ↔
      isFinite b = false ∨ (quantSum b off).any (fun t => 2 ^ 994 * unitsPerOne ≤ t.natAbs) = true := by
  unfold coordRejected
  generalize (2 : Nat) ^ 994 * unitsPerOne = bound
  cases quantSum b off <;> simp

/-- The invariant, field by field. -/
theorem State.inv_iff (s : State) :
    s.inv = true ↔ s.cbuf.wf = true ∧ s.nd.toNat ≤ 10 ∧ s.np.toNat ≤ 2 ∧ s.nd.toNat + s.np.toNat ≤ 12 ∧
      s.err.toNat ≤ 4 ∧ s.c1.toNat < 2 ^ 30 ∧ s.c2.toNat < 2 ^ 30 := by
  simp [State.inv, and_assoc]

/-- `nextOf` finds a next state exactly where there is one. -/
theorem nextOf_eq_some {r : Result} {t : State} : nextOf r = some t ↔ r = .next t := by
  cases r <;> simp [nextOf]

end Sys2Proof.Machine
end

