-- ==== Sys2Proof/Laws/Step.lean ====
section
/-! SUPPORT. What a command word, a reset and a cell write by the host do, in the form later proofs rewrite with. -/

namespace Sys2Proof.Machine

/-- A word that names a command runs it. -/
theorem runWord_of_ok {w : Byte} {i : Instr} (h : decode w = .ok i) (s : State) : runWord w s = exec i s := by
  rw [runWord, h]

/-- A word that names none raises `E_ILLCMD` (R73). -/
theorem runWord_of_error {w : Byte} {e : DecodeError} (h : decode w = .error e) (s : State) :
    runWord w s = .next (raise .illCmd s) := by
  rw [runWord, h]

/-- Reset keeps the pending host actions and nothing else (R250; log entry 3). -/
@[simp] theorem resetCore_eq (s : State) : resetCore s = { State.reset with host := s.host } := rfl

/-- A buffer write by the host always finds its cell (R235). -/
theorem runAction_writeCbuf (k : Fin 15) (c : Byte) (s : State) :
    runAction (.writeCbuf k c) s = .next (s.withCell k.val c) :=
  if_pos k.isLt

end Sys2Proof.Machine
end

