-- ==== Sys2Proof/Laws/Units.lean ====
section
/-! SUPPORT. The unit functions, bit by bit. -/

namespace Sys2Proof.Machine

/-- `spread16` puts bit `k` of its operand at bit `2k` and 0 at the odd bits (R121). -/
theorem spread16_getLsbD (a : BitVec 16) (j : Nat) :
    (spread16 a).getLsbD j = (decide (j < 32) && (j % 2 == 0) && a.getLsbD (j / 2)) := by
  by_cases h : j < 32 <;> simp [spread16, BitVec.getLsbD_ofFnLE, h]

/-- The longitude group of a digit is its odd bits (R125). -/
theorem deinterleave6_fst_getLsbD (d : Digit) (k : Nat) :
    (deinterleave6 d).1.getLsbD k = (decide (k < 3) && d.getLsbD (2 * k + 1)) := by
  by_cases h : k < 3 <;> simp [deinterleave6, BitVec.getLsbD_ofFnLE, h]

/-- The latitude group of a digit is its even bits (R125). -/
theorem deinterleave6_snd_getLsbD (d : Digit) (k : Nat) :
    (deinterleave6 d).2.getLsbD k = (decide (k < 3) && d.getLsbD (2 * k)) := by
  by_cases h : k < 3 <;> simp [deinterleave6, BitVec.getLsbD_ofFnLE, h]

/-- One degree is `2^1074` units. -/
theorem unitsPerOne_eq : unitsPerOne = 2 ^ 1074 := by delta unitsPerOne; rfl

/-- There is at least one unit to a degree. -/
theorem unitsPerOne_pos : 0 < unitsPerOne := by
  delta unitsPerOne
  generalize 1074 = n
  exact Nat.two_pow_pos n

/-- The overflow threshold in units. -/
theorem overflowMag_eq : overflowMag = (2 ^ 1024 - 2 ^ 970) * unitsPerOne := by delta overflowMag; rfl

/-- The rounded quotient is a neighbour of the exact one. -/
theorem nearestEven_bounds (n d : Nat) : n / d ≤ nearestEven n d ∧ nearestEven n d ≤ n / d + 1 := by
  simp only [nearestEven]; split <;> [skip; split <;> [skip; split]] <;> omega

/-- The rounded quotient is within half a unit of the exact one. -/
theorem nearestEven_close (n d : Nat) (hd : 0 < d) :
    2 * (nearestEven n d * d) ≤ 2 * n + d ∧ 2 * n ≤ 2 * (nearestEven n d * d) + d := by
  have hdiv := Nat.div_add_mod' n d
  have hlt := Nat.mod_lt n hd
  have hsucc : (n / d + 1) * d = n / d * d + d := Nat.succ_mul ..
  simp only [nearestEven]
  split <;> [skip; split <;> [skip; split]] <;> (try rw [hsucc]) <;> omega

end Sys2Proof.Machine
end

