-- ==== Sys2Proof/Tests/Slice0.lean ====
section
/-! SUPPORT. Tests: values printed by spec/ (95_test_vectors.md unless a comment says otherwise), the smoke tests of the
well-formedness checks, and for each statement with hypotheses a witness that meets them. -/

namespace Sys2Proof.Tests

open Sys2Proof.Machine

/- One theorem at a time: checked side by side, this file's kernel evaluations each hold a thread. -/
set_option Elab.async false

/-! ### Well-formedness: each check refuses an ill-formed term -/

/-- Unit 3 has no command of its own (R70). -/
theorem test_unit_3_refused : (CommandFields.ofWord 0x30).wellFormed = false := by decide
/-- Unit 0 and units 6 and up do not exist (R73). -/
theorem test_unit_0_refused : (CommandFields.ofWord 0x00).wellFormed = false := by decide
theorem test_unit_15_refused : (CommandFields.ofWord 0xFF).wellFormed = false := by decide
/-- The first function number past each unit's last (R73). -/
theorem test_fn_past_quantizer_refused : (CommandFields.ofWord 0x12).wellFormed = false := by decide
theorem test_fn_past_interleaver_refused : (CommandFields.ofWord 0x21).wellFormed = false := by decide
theorem test_fn_past_encoder_refused : (CommandFields.ofWord 0x45).wellFormed = false := by decide
theorem test_fn_past_decoder_refused : (CommandFields.ofWord 0x54).wellFormed = false := by decide
/-- Sixteen characters cannot be presented (R28), fifteen can. -/
theorem test_long_string_refused : presentable (List.replicate 16 0x41) = false := by decide
theorem test_full_string_presentable : presentable (List.replicate 15 0x41) = true := by decide

/-! ### Decoding: every command's word, written in binary from R71 -/

theorem test_decode_qnt : decode 0b00010000 = .ok .qnt := by decide
theorem test_decode_dqn : decode 0b00010001 = .ok .dqn := by decide
theorem test_decode_mrt : decode 0b00100000 = .ok .mrt := by decide
theorem test_decode_enc : decode 0b01000000 = .ok .enc := by decide
theorem test_decode_len : decode 0b01000001 = .ok .len := by decide
theorem test_decode_ein : decode 0b01000010 = .ok .ein := by decide
theorem test_decode_emit : decode 0b01000011 = .ok .emit := by decide
theorem test_decode_padc : decode 0b01000100 = .ok .padc := by decide
theorem test_decode_dec : decode 0b01010000 = .ok .dec := by decide
theorem test_decode_din : decode 0b01010001 = .ok .din := by decide
theorem test_decode_acc : decode 0b01010010 = .ok .acc := by decide
theorem test_decode_zadj : decode 0b01010011 = .ok .zadj := by decide
/-- An illegal word is rejected by name (R73). -/
theorem test_decode_rejects : decode 0x53 ≠ .error (.illegalCommand 0x53) ∧ decode 0x54 = .error (.illegalCommand 0x54) := by
  decide
/-- No two rows of the table match one word. -/
theorem test_table_rows_disjoint :
    commandTable.Pairwise (fun r r' => r.pattern &&& r'.mask ≠ r'.pattern) := by decide
theorem test_decode_table_word : decodeTableWord 8 67 = some .emit ∧ decodeTableWord 8 0 = none := by decide

/-! ### States the tests run on -/

/-- The inputs of the known vector V1 at zoom `z`. -/
def v1 (z : BitVec 8) : State :=
  { State.reset with lat := 0x40490E38E3765C7E, lon := 0x40251C71C53F39D2, zoom := z }

/-- A state that holds a string of non-zero bytes. -/
def holding (str : List Byte) : State :=
  { State.reset with clen := BitVec.ofNat 4 str.length, cbuf := (List.range str.length).zip str }

/-- The characters `0D_QEtY0--` of V1. -/
def v1Code : List Byte := [0x30, 0x44, 0x5F, 0x51, 0x45, 0x74, 0x59, 0x30, 0x2D, 0x2D]

/-- One command on a state; the reset state stands in where it has no next state. -/
def after (i : Instr) (s : State) : State := (nextOf (exec i s)).getD State.reset

/-! ### One command at a time -/

/-- Section 2.1, V1. -/
theorem test_qnt_v1 : ((after .qnt (v1 15)).x, (after .qnt (v1 15)).y) = (0x8781948A, 0xC744E615) := by decide +kernel
/-- Section 2.1: the exact negative tie `-4.5` goes to -5. -/
theorem test_qnt_negative_tie : (after .qnt { State.reset with lon := 0xC066800000CA8000 }).x = 0xFFFFFFFB := by
  decide +kernel
/-- Section 2.2, V1. -/
theorem test_dqn_v1 :
    let t := after .dqn { State.reset with x := 0x878194, y := 0xC744E6, i := 8 }
    (t.lat, t.lon) = (0x40490E38DC000000, 0x40251C7040000000) := by decide +kernel
/-- Section 2.2, last row: a state no decode reaches. -/
theorem test_dqn_widest :
    let t := after .dqn { State.reset with x := 0x1FFFFFFFFFFF, i := 0 }
    (t.lat, t.lon) = (0xC056800000000000, 0x43467FFFFFFFFEF2) := by decide +kernel
/-- Section 2.3, V1. -/
theorem test_mrt_v1 :
    let t := after .mrt { State.reset with x := 0x8781948A, y := 0xC744E615 }
    (t.c1, t.c2) = (0x340FE404, 0x2D634819) := by decide +kernel
/-- Section 2.3: bit 44 is ignored, bit 31 is bit 29 of `C1`. -/
theorem test_mrt_high_bits :
    let t := after .mrt { State.reset with x := 0x100080000000 }
    (t.c1, t.c2) = (0x20000000, 0) := by decide +kernel
/-- Section 2.5: the longest code. -/
theorem test_len_21 : let t := after .len (v1 21); (t.nd, t.np) = (10, 2) := by decide +kernel
/-- Section 2.5: 23 and -9 fault. -/
theorem test_len_faults :
    (after .len (v1 23)).err = 3 ∧ (after .len (v1 0xF7)).err = 3 ∧ (after .len (v1 23)).nd = 0 := by decide +kernel
/-- R163, worked example. -/
theorem test_ein : let t := after .ein { State.reset with i := 10, clen := 10 }; (t.i, t.clen) = (0, 0) := by
  decide +kernel
/-- R167: digit 5 is the first taken from `C2`. -/
theorem test_emit_first_of_c2 :
    let t := after .emit { State.reset with c1 := 0x340FE404, c2 := 0x2D634819, nd := 8, i := 5 }
    (t.cbuf, t.i, t.clen) = ([(5, 0x74)], 6, 6) := by decide +kernel
/-- Section 2.5: out of turn in the reset state. -/
theorem test_emit_out_of_turn : exec .emit State.reset = .next { State.reset with err := 4 } := by rfl
/-- R168, worked example. -/
theorem test_padc :
    let t := after .padc { State.reset with nd := 8, np := 2, i := 8 }
    (t.cbuf, t.i, t.clen) = ([(8, 0x2D)], 9, 9) := by decide +kernel
/-- Section 2.5: digits still owed. -/
theorem test_padc_out_of_turn : (after .padc { State.reset with nd := 8, np := 2 }).err = 4 := by decide +kernel
/-- V1. -/
theorem test_enc_v1 : let t := after .enc (v1 15); (codeString t, t.i, t.nd, t.np) = (v1Code, 10, 8, 2) := by
  decide +kernel
/-- Program P4: `QNT` and `MRT` take effect, `LEN` faults. -/
theorem test_enc_zoom_fault :
    let t := after .enc (v1 23)
    (t.err, t.x, t.c2, t.nd, t.cbuf) = (3, 0x8781948A, 0x2D634819, 0, []) := by decide +kernel
/-- R190. -/
theorem test_din :
    let t := after .din { State.reset with x := 5, y := 6, i := 3, stop := true, clen := 4 }
    (t.x, t.y, t.zoom, t.i, t.stop, t.clen) = (0, 0, 0xF8, 0, false, 4) := by decide +kernel
/-- Section 2.6: the fold drops bit 47. -/
theorem test_acc_drops_high_bits :
    let t := after .acc { holding (List.replicate 15 0x77) with x := 0x100000000000, y := 0x100000000000, zoom := 37 }
    (t.x, t.y, t.zoom, t.i, t.stop) = (4, 4, 40, 1, false) := by decide +kernel
/-- Section 2.6: the end of the string sets `STOP`. -/
theorem test_acc_at_end : (after .acc { holding [0x41] with i := 1 }).stop = true := by decide +kernel
/-- Section 2.6: `-128 - 2 + 1` wraps to 127. -/
theorem test_zadj_wraps : (after .zadj { holding [0x2D, 0x2D] with zoom := 0x80 }).zoom = 0x7F := by decide +kernel
/-- Section 2.6, `AB!-x`: a pad after a byte that is none is not looked at. -/
theorem test_zadj_nested : (after .zadj { holding [0x41, 0x42, 0x21, 0x2D, 0x78] with i := 2 }).zoom = 0 := by
  decide +kernel
/-- Program P2, `~@w-x`. -/
theorem test_dec_legacy :
    let t := after .dec (holding [0x7E, 0x40, 0x77, 0x2D, 0x78])
    (t.x, t.i, t.zoom, t.lat, t.lon) = (0x1FC, 3, 0xFF, 0x4056260000000000, 0x4066260000000000) := by decide +kernel
/-- Section 2.6: position 15 does not exist. -/
theorem test_dec_fourteen_and_pad :
    let t := after .dec (holding (List.replicate 14 0x41 ++ [0x2D]))
    (t.i, t.zoom, t.stop) = (14, 32, true) := by decide +kernel

/-! ### The host interface -/

/-- Program P6: an illegal word faults, and the command after it is ignored. -/
theorem test_illegal_word_stops_core :
    ((nextOf (runActions [.command 0x00, .command 0x42] { State.reset with i := 5 })).map fun t => (t.err, t.i)) =
      some (1, 5) := by decide +kernel
/-- Section 2.7: only reset clears the fault. -/
theorem test_reset_clears_fault :
    nextOf (runActions [.writeZoom 23, .command 0x41, .reset] State.reset) = some State.reset := by decide +kernel
/-- R29: `STOP` is bit 3 of `STATUS`. -/
theorem test_status : hostRead { State.reset with stop := true, err := 4 } .status = 0b1100 := by decide +kernel

/-! ### Witnesses: states that meet the hypotheses of the statements -/

theorem witness_IllegalWordRaisesIllCmd :
    (0x54 : Byte) ∉ ([0x10, 0x11, 0x20, 0x40, 0x41, 0x42, 0x43, 0x44, 0x50, 0x51, 0x52, 0x53] : List Byte) ∧
      (v1 15).err = 0 := by decide

theorem witness_StepRunsDecodedCommand :
    let s := { v1 15 with host := [.command 0x40] }
    s.host = .command 0x40 :: [] ∧ decode 0x40 = .ok .enc := by decide

theorem witness_HostActionEffects : (holding v1Code).cbuf.wf = true ∧ decode 0x40 = .ok .enc := by decide

theorem witness_HostWriteReachesNoOther :
    let s := holding v1Code
    (∀ w, HostAction.writeCbuf 14 0x41 ≠ .command w) ∧ HostAction.writeCbuf 14 0x41 ≠ .reset ∧
      runAction (.writeCbuf 14 0x41) s = .next (s.withCell 14 0x41) := ⟨by simp, by decide, rfl⟩

theorem witness_IdleCoreKeepsItsState : (v1 15).host = [] := rfl

theorem witness_StatusWordLayout :
    let s := { State.reset with stop := true }
    (∀ w, HostAction.writeZoom 15 ≠ .command w) ∧ HostAction.writeZoom 15 ≠ .reset ∧
      runAction (.writeZoom 15) s = .next { s with zoom := 15 } := ⟨by simp, by decide, rfl⟩

/-- A list of actions in front of another. -/
theorem witness_RunDoesPendingActionsInOrder :
    nextOf (core.run 2 { State.reset with host := [.writeZoom 15, .command 0x41] ++ [.reset] }) =
      some { State.reset with zoom := 15, nd := 8, np := 2, host := [.reset] } := by decide +kernel

/-- The longest string that can be presented and the shortest that cannot. -/
theorem witness_PresentedStringIsHeld :
    (List.replicate 15 (0x7E : Byte)).length ≤ 15 ∧ (holding v1Code).cbuf.wf = true ∧
      15 < (List.replicate 16 (0x7E : Byte)).length := by decide

theorem witness_FaultChangesOnlyErr :
    (v1 15).err = 0 ∧ ({ v1 15 with err := 2 }).err ≠ 0 ∧ Instr.padc ≠ .enc ∧
      exec .padc (v1 15) = .next (after .padc (v1 15)) ∧ (after .padc (v1 15)).err ≠ 0 :=
  ⟨rfl, by decide, by decide, rfl, by decide +kernel⟩

theorem witness_FaultedCoreWaitsForReset :
    let s := { v1 15 with err := 3 }
    s.err ≠ 0 ∧ HostAction.writeZoom 22 ≠ .reset ∧ runAction (.writeZoom 22) s = .next { s with zoom := 22 } ∧
      runAction .reset s = .next State.reset := ⟨by decide, by decide, rfl, rfl⟩

/-- A value that is rounded, and the first that overflows. -/
theorem witness_RoundingIsNearestTiesToEven :
    (0 : Nat) < 45 ∧ roundNearest 1 45 = some 0 ∧ roundNearest (2 ^ 1024 * unitsPerOne) 1 = none := by decide +kernel

/-- An infinity; V1's longitude; the smallest longitude whose sum reaches `2^994`. -/
theorem witness_QuantizeFunction :
    isFinite 0x7FF0000000000000 = false ∧ isFinite (v1 15).lon = true ∧ isFinite 0x7E10000000000000 = true ∧
      quantSum 0x7E10000000000000 180 = some ((2 ^ 994 * unitsPerOne : Nat) : Int) := by decide +kernel

/-- V1 is accepted; an infinity, a NaN and `2^994` are rejected. -/
theorem witness_QuantizeCommand :
    (v1 15).err = 0 ∧ ¬ coordRejected (v1 15).lon 180 ∧ ¬ coordRejected (v1 15).lat 90 ∧
      coordRejected 0x7FF0000000000000 180 ∧ coordRejected 0x7FF8000000000000 90 ∧
      coordRejected 0x7E10000000000000 180 ∧ ¬ coordRejected 0x7E0FFFFFFFFFFFFF 180 := by
  simp only [coordRejected_iff]; decide +kernel

theorem witness_NonFiniteFaultRaised :
    let s := { v1 15 with lat := 0x7FF8000000000000 }
    s.err = 0 ∧ (coordRejected s.lon 180 ∨ coordRejected s.lat 90) ∧
      ¬ (coordRejected (v1 15).lon 180 ∨ coordRejected (v1 15).lat 90) := by
  simp only [coordRejected_iff]; decide +kernel

/-- `180 - 90/2^31` itself, and 90 degrees. -/
theorem witness_EastAndNorthEdgesWrap :
    isFinite 0x40667FFFFFE98000 = true ∧ coord 0x40667FFFFFE98000 = 180 - 90 / 2 ^ 31 ∧
      isFinite 0x4056800000000000 = true ∧ coord 0x4056800000000000 = 90 := by decide +kernel

/-- The two ends of the nominal range of longitude, and V1's latitude. -/
theorem witness_QuantizerAccuracy :
    isFinite 0xC066800000000000 = true ∧ |coord 0xC066800000000000| ≤ (180 : Nat) ∧ isFinite 0x4066800000000000 = true ∧
      |coord 0x4066800000000000| ≤ (180 : Nat) ∧ isFinite (v1 15).lat = true ∧ |coord (v1 15).lat| ≤ (90 : Nat) := by
  decide +kernel

theorem witness_DequantizeCommandIsExact : ({ v1 15 with x := 4, y := 4, i := 1 }).err = 0 := rfl

theorem witness_MortonCommand :
    let s := { State.reset with x := 0x8781948A, y := 0xC744E615 }
    let s' := { State.reset with x := 0x100087819489, y := 0xC744E614 }
    s.err = 0 ∧ s'.err = 0 ∧ s.x.extractLsb' 2 30 = s'.x.extractLsb' 2 30 ∧
      s.y.extractLsb' 2 30 = s'.y.extractLsb' 2 30 ∧ exec .mrt s = .next (after .mrt s) ∧
      exec .mrt s' = .next (after .mrt s') := by
  refine ⟨rfl, rfl, ?_, ?_, rfl, rfl⟩ <;> decide +kernel

theorem witness_TiersFormOneWideInterleave :
    let s := { State.reset with x := 0x8781948A, y := 0xC744E615 }
    s.err = 0 ∧ exec .mrt s = .next (after .mrt s) := ⟨rfl, rfl⟩

theorem witness_DigitsAsBitsOfThePoint :
    let s := { State.reset with x := 0xFF49F49F, y := 0xFE93E93F }
    s.err = 0 ∧ exec .mrt s = .next (after .mrt s) := ⟨rfl, rfl⟩

theorem witness_InterleaveProperties : (0x7FFF : BitVec 16).toNat < 2 ^ 15 ∧ (1 : BitVec 16).toNat < 2 ^ 15 := by decide

/-- Both ends of the legal range, and the first zoom past each. -/
theorem witness_LengthCommand :
    (v1 0xF8).err = 0 ∧ (v1 0xF8).zoom.toInt = -8 ∧ (v1 22).zoom.toInt = 22 ∧ (v1 0xF7).zoom.toInt < -8 ∧
      22 < (v1 23).zoom.toInt := by decide

theorem witness_EncoderInitCommand : ({ State.reset with i := 10, clen := 10 }).err = 0 := rfl

theorem witness_SliceFields : (4 < 5) ∧ (5 ≤ 5 ∧ 5 < 10) ∧ (5 ≤ 9 ∧ 9 < 10) := by decide

/-- The last digit, and the first index with none owed. -/
theorem witness_EmitCommand :
    let s := { holding v1Code with nd := 10, i := 9 }
    s.err = 0 ∧ s.cbuf.wf = true ∧ s.nd.toNat ≤ 10 ∧ s.i.toNat < s.nd.toNat ∧
      ({ s with i := 10 }).nd.toNat ≤ ({ s with i := 10 }).i.toNat := by
  decide

/-- The first and the last pad, the last digit owed, and the first index past the pads. -/
theorem witness_PadCommand :
    let s := fun i => { holding v1Code with nd := 10, np := 2, i := i }
    (s 10).err = 0 ∧ (s 10).cbuf.wf = true ∧ (s 10).nd.toNat + (s 10).np.toNat ≤ 12 ∧
      ((s 10).nd.toNat ≤ (s 10).i.toNat ∧ (s 10).i.toNat < (s 10).nd.toNat + (s 10).np.toNat) ∧
      ((s 11).nd.toNat ≤ (s 11).i.toNat ∧ (s 11).i.toNat < (s 11).nd.toNat + (s 11).np.toNat) ∧
      (s 9).i.toNat < (s 9).nd.toNat ∧ (s 12).nd.toNat + (s 12).np.toNat ≤ (s 12).i.toNat := by decide

theorem witness_EncodeCommand :
    (v1 21).err = 0 ∧ (v1 21).cbuf.wf = true ∧ quant1 (v1 21).lon 180 90 = some 0x8781948A ∧
      quant1 (v1 21).lat 90 45 = some 0xC744E615 ∧ -8 ≤ (v1 21).zoom.toInt ∧ (v1 21).zoom.toInt ≤ 22 := by
  decide +kernel

theorem witness_EncodeFaults :
    let s := { v1 23 with lon := 0xFFF0000000000000 }
    s.err = 0 ∧ (coordRejected s.lon 180 ∨ coordRejected s.lat 90) ∧ (v1 23).err = 0 ∧
      quant1 (v1 23).lon 180 90 = some 0x8781948A ∧ quant1 (v1 23).lat 90 45 = some 0xC744E615 ∧
      (22 < (v1 23).zoom.toInt) ∧ (v1 0xF7).zoom.toInt < -8 := by
  simp only [coordRejected_iff]; decide +kernel

/-- `ENC` on V1 at zoom `z` has a next state, and it holds no fault. -/
theorem enc_v1_next (z : BitVec 8) (h : (nextOf (exec .enc (v1 z))).isSome = true) :
    exec .enc (v1 z) = .next (after .enc (v1 z)) := by
  obtain ⟨t, ht⟩ := Option.isSome_iff_exists.mp h
  rw [after, ht]; exact nextOf_eq_some.mp ht

theorem witness_ShortCodeShape :
    (v1 15).err = 0 ∧ (v1 15).cbuf.wf = true ∧ exec .enc (v1 15) = .next (after .enc (v1 15)) ∧
      (after .enc (v1 15)).err = 0 :=
  ⟨rfl, rfl, enc_v1_next 15 (by decide +kernel), by decide +kernel⟩

/-- V1 on two states that differ in everything `ENC` does not read. -/
theorem witness_EncodeDependsOnInputsOnly :
    let s' := { v1 15 with x := 7, c1 := 9, nd := 3, np := 1, i := 4, clen := 15, cbuf := [(3, 0x55)], stop := true }
    (v1 15).err = 0 ∧ s'.err = 0 ∧ s'.cbuf.wf = true ∧ (v1 15).lat = s'.lat ∧ (v1 15).lon = s'.lon ∧
      (v1 15).zoom = s'.zoom ∧ (nextOf (exec .enc (v1 15))).isSome = true ∧ (after .enc (v1 15)).err = 0 ∧
      (nextOf (exec .enc s')).isSome = true := by decide +kernel

/-- V1 at zooms 0 and 22. -/
theorem witness_LowerZoomDigitsComeFirst :
    (v1 0).err = 0 ∧ (v1 0).cbuf.wf = true ∧ (v1 0).lat = (v1 22).lat ∧ (v1 0).lon = (v1 22).lon ∧
      (v1 0).zoom.toInt ≤ (v1 22).zoom.toInt ∧ (nextOf (exec .enc (v1 0))).isSome = true ∧ (after .enc (v1 0)).err = 0 ∧
      (nextOf (exec .enc (v1 22))).isSome = true ∧ (after .enc (v1 22)).err = 0 := by decide +kernel

/-- The largest longitude still accepted. -/
theorem witness_EncodeTotalBelowTheBound :
    let s := { v1 22 with lon := 0x7E0FFFFFFFFFFFFE }
    s.err = 0 ∧ isFinite s.lon = true ∧ isFinite s.lat = true ∧ |coord s.lon + 180| ≤ 2 ^ 994 - 2 ^ 941 ∧
      |coord s.lat + 90| ≤ 2 ^ 994 - 2 ^ 941 ∧ -8 ≤ s.zoom.toInt ∧ s.zoom.toInt ≤ 22 := by decide +kernel

/-- `-2^994`: the hypotheses of R174 as worded hold, and `ENC` faults (log entry 7). -/
theorem test_r174_edge :
    let s := { v1 22 with lon := 0xFE10000000000000 }
    isFinite s.lon = true ∧ |coord s.lon + 180| < 2 ^ 994 ∧ (after .enc s).err = 2 := by decide +kernel

theorem witness_DecoderInitCommand : ({ v1 15 with x := 5, stop := true }).err = 0 := rfl

theorem witness_FoldShiftsInThreeBits : (0x3FFFFFFFFFF : Grid).toNat < 2 ^ 42 := by decide

/-- Stopped; at the end of the string; the pad of V1; the last digit of V1. -/
theorem witness_AccumulateCommand :
    let s := fun i b => { holding v1Code with i := i, stop := b }
    (s 0 true).err = 0 ∧ (s 0 true).stop = true ∧ (s 10 false).clen.toNat ≤ (s 10 false).i.toNat ∧
      ((s 8 false).stop = false ∧ (s 8 false).i.toNat < (s 8 false).clen.toNat ∧
        decChar (normChar ((s 8 false).cbuf.cellAt (s 8 false).i.toNat)) = none) ∧
      ((s 7 false).stop = false ∧ (s 7 false).i.toNat < (s 7 false).clen.toNat ∧
        decChar (normChar ((s 7 false).cbuf.cellAt (s 7 false).i.toNat)) = some 52) := by decide

/-- No pad at `I`; one pad; two pads; a pad as the last character. -/
theorem witness_ZoomAdjustCommand :
    let s := fun i => { holding v1Code with i := i }
    (s 7).err = 0 ∧ ¬ ((s 7).i.toNat < (s 7).clen.toNat ∧ (s 7).cbuf.cellAt (s 7).i.toNat = 0x2D) ∧
      ((s 8).i.toNat < (s 8).clen.toNat ∧ (s 8).cbuf.cellAt (s 8).i.toNat = 0x2D) ∧
      ((s 8).i.toNat + 1 < (s 8).clen.toNat ∧ (s 8).cbuf.cellAt ((s 8).i.toNat + 1) = 0x2D) ∧
      ((s 9).i.toNat < (s 9).clen.toNat ∧ (s 9).cbuf.cellAt (s 9).i.toNat = 0x2D) ∧
      ¬ ((s 9).i.toNat + 1 < (s 9).clen.toNat ∧ (s 9).cbuf.cellAt ((s 9).i.toNat + 1) = 0x2D) := by decide

theorem witness_DecodeLoopEnds : (holding v1Code).err = 0 := rfl

/-- A digit part ended by a pad, a digit part that fills the buffer, and an empty one. -/
theorem witness_DecodeClosedForm :
    (holding v1Code).err = 0 ∧ digitPart (holding v1Code) 8 ∧ digitPart (holding (List.replicate 15 0x7E)) 15 ∧
      digitPart State.reset 0 := by
  unfold digitPart; decide +kernel

/-- `0D_QEtY0--zzz` and `0D_QEtY0--AAA` differ only past the two pads. -/
theorem witness_DecodeReadsOnlyItsString :
    let s := holding (v1Code ++ [0x7A, 0x7A, 0x7A])
    let s' := holding (v1Code ++ [0x41, 0x41, 0x41])
    s.err = 0 ∧ s'.err = 0 ∧ s.clen = s'.clen ∧ digitPart s 8 ∧
      (∀ k, k < 10 → k < s.clen.toNat → s.cbuf.cellAt k = s'.cbuf.cellAt k) ∧
      (nextOf (exec .dec s)).isSome = true ∧ (nextOf (exec .dec s')).isSome = true := by
  unfold digitPart; decide +kernel

/-- `0D@Q--` and `0D~Q--`. -/
theorem witness_LegacyCharacterDecodesAlike :
    let s := holding [0x30, 0x44, 0x40, 0x51, 0x2D, 0x2D]
    let s' := holding [0x30, 0x44, 0x7E, 0x51, 0x2D, 0x2D]
    s.err = 0 ∧ s'.err = 0 ∧ s.clen = s'.clen ∧
      (∀ k < s.clen.toNat, normChar (s.cbuf.cellAt k) = normChar (s'.cbuf.cellAt k)) ∧
      (nextOf (exec .dec s)).isSome = true ∧ (nextOf (exec .dec s')).isSome = true := by decide +kernel

theorem witness_RoundTripTruncates :
    (v1 17).err = 0 ∧ (v1 17).cbuf.wf = true ∧ exec .enc (v1 17) = .next (after .enc (v1 17)) ∧
      (after .enc (v1 17)).err = 0 :=
  ⟨rfl, rfl, enc_v1_next 17 (by decide +kernel), by decide +kernel⟩

theorem witness_RoundTripError :
    let s := v1 15
    s.err = 0 ∧ s.cbuf.wf = true ∧ isFinite s.lon = true ∧ isFinite s.lat = true ∧ |coord s.lon| ≤ 180 ∧
      |coord s.lat| ≤ 90 ∧ quantInt s.lon 180 90 = some 2273416330 ∧ quantInt s.lat 90 45 = some 3343181333 ∧
      (nextOf (exec .enc s)).isSome = true ∧ (after .enc s).err = 0 ∧ 1 ≤ (after .enc s).nd.toNat ∧
      (nextOf (exec .dec (after .enc s))).isSome = true := by decide +kernel

/-- The binary64 value just below `180 - 90/2^31` quantizes to `2^32` and wraps (log entry 7). -/
theorem test_r205_edge :
    coord 0x40667FFFFFE97FFF < 180 - 90 / 2 ^ 31 ∧ quantInt 0x40667FFFFFE97FFF 180 90 = some (2 ^ 32) := by
  decide +kernel

theorem witness_MonotonicPrecision :
    let s := v1 15
    let s' := v1 16
    s.err = 0 ∧ s.cbuf.wf = true ∧ |coord s.lon| ≤ 180 ∧ |coord s.lat| ≤ 90 ∧ s'.lon = s.lon ∧ s'.lat = s.lat ∧
      s'.zoom.toInt = s.zoom.toInt + 1 ∧ (after .enc s).err = 0 ∧ (after .enc s').err = 0 ∧
      (nextOf (exec .enc s)).isSome = true ∧ (nextOf (exec .enc s')).isSome = true ∧
      (nextOf (exec .dec (after .enc s))).isSome = true ∧ (nextOf (exec .dec (after .enc s'))).isSome = true := by
  decide +kernel

theorem witness_StepKeepsInvariant :
    let s := { v1 21 with host := [.command 0x40] }
    s.inv = true ∧ (nextOf (step s)).isSome = true := by decide +kernel

/-- A state of the invariant, and one outside it where `PADC` meets index 15. -/
theorem witness_EveryStepCompletes :
    (v1 15).inv = true ∧ nextOf (exec .padc { State.reset with nd := 15, np := 1, i := 15 }) = none := by decide +kernel

theorem witness_RegistersWrittenByCommand : exec .ein (v1 15) = .next (after .ein (v1 15)) := rfl

end Sys2Proof.Tests
end

section
/-! What each command, command word and host action can do: one inversion lemma for each, guards included, so that
proofs about runs cite these and do not unfold the commands. -/

namespace Sys2Proof.Machine

/-! ### The commands that are no sequences -/

/-- `QNT` writes both coordinates or raises `E_NONFINITE` (R107). -/
theorem execQnt_next {s t : State} (h : execQnt s = .next t) :
    (s.err ≠ 0 ∧ t = s) ∨
    (s.err = 0 ∧ ∃ qx qy, quantLon s = some qx ∧ quantLat s = some qy ∧
      t = s.withPoint (qx.setWidth 45) (qy.setWidth 45)) ∨
    (s.err = 0 ∧ (quantLon s = none ∨ quantLat s = none) ∧ t = s.withErr (FaultCode.code .nonFinite)) := by
  obtain hidle | ⟨he, h⟩ := whenRunning_next h
  · exact .inl hidle
  · rw [raise_running he] at h
    cases hx : quantLon s <;> cases hy : quantLat s <;> simp_all

/-- `DQN` writes both coordinates (R110). -/
theorem execDqn_next {s t : State} (h : execDqn s = .next t) :
    (s.err ≠ 0 ∧ t = s) ∨
    (s.err = 0 ∧ t = s.withCoord
      (patternOf (dequant s.x s.i.toNat Config.lonOffset Config.lonDivisor))
      (patternOf (dequant s.y s.i.toNat Config.latOffset Config.latDivisor))) :=
  (whenRunning_next h).imp_right fun ⟨he, h⟩ => ⟨he, (Host.Outcome.next.inj h).symm⟩

/-- `MRT` writes both tiers (R126). -/
theorem execMrt_next {s t : State} (h : execMrt s = .next t) :
    (s.err ≠ 0 ∧ t = s) ∨
    (s.err = 0 ∧ t = s.withTiers (interleave (hiOperand s.x) (hiOperand s.y))
      (interleave (loOperand s.x) (loOperand s.y))) :=
  (whenRunning_next h).imp_right fun ⟨he, h⟩ => ⟨he, (Host.Outcome.next.inj h).symm⟩

/-- `LEN` writes the counts of a legal zoom and raises `E_ZOOM` for any other (R162). -/
theorem execLen_next {s t : State} (h : execLen s = .next t) :
    (s.err ≠ 0 ∧ t = s) ∨
    (s.err = 0 ∧ zoomLegal (zoomLevel s) = true ∧
      t = s.withCounts (BitVec.ofNat 4 (ndigits (zoomLevel s))) (BitVec.ofNat 2 (npads (zoomLevel s)))) ∨
    (s.err = 0 ∧ zoomLegal (zoomLevel s) = false ∧ t = s.withErr (FaultCode.code .zoom)) := by
  obtain hidle | ⟨he, h⟩ := whenRunning_next h
  · exact .inl hidle
  · rw [raise_running he] at h
    split at h <;> simp_all

/-- `EIN` clears `I` and `CLEN` (R163). -/
theorem execEin_next {s t : State} (h : execEin s = .next t) :
    (s.err ≠ 0 ∧ t = s) ∨ (s.err = 0 ∧ t = (s.withIndex 0).withLength 0) :=
  (whenRunning_next h).imp_right fun ⟨he, h⟩ => ⟨he, (Host.Outcome.next.inj h).symm⟩

/-- A character is appended only at an index the buffer has. -/
theorem appendChar_next {c : Byte} {s t : State} (h : appendChar c s = .next t) :
    s.i.toNat < Config.cap ∧ t = ((s.withCell s.i.toNat c).withIndex (s.i + 1)).withLength (s.i + 1) := by
  obtain ⟨hlt, heq⟩ | ⟨-, heq⟩ := memWrite_eq s.i.toNat c s
    fun t => .next ((t.withIndex (s.i + 1)).withLength (s.i + 1))
  · exact ⟨hlt, (Host.Outcome.next.inj (heq.symm.trans h)).symm⟩
  · exact absurd (heq.symm.trans h) (by simp)

/-- `EMIT` appends a digit while one is owed and raises `E_SEQ` otherwise (R166). -/
theorem execEmit_next {s t : State} (h : execEmit s = .next t) :
    (s.err ≠ 0 ∧ t = s) ∨
    (s.err = 0 ∧ digitsOwed s = true ∧ s.i.toNat < Config.cap ∧
      t = ((s.withCell s.i.toNat (encDigit (nextDigit s))).withIndex (s.i + 1)).withLength (s.i + 1)) ∨
    (s.err = 0 ∧ digitsOwed s = false ∧ t = s.withErr (FaultCode.code .seq)) := by
  obtain hidle | ⟨he, h⟩ := whenRunning_next h
  · exact .inl hidle
  · rw [raise_running he] at h
    split at h
    case isTrue howed => exact .inr (.inl ⟨he, howed, appendChar_next h⟩)
    case isFalse howed => exact .inr (.inr ⟨he, by simpa using howed, (Host.Outcome.next.inj h).symm⟩)

/-- `PADC` appends a pad once the digits are out and while a pad is owed, and raises `E_SEQ` otherwise (R168). -/
theorem execPadc_next {s t : State} (h : execPadc s = .next t) :
    (s.err ≠ 0 ∧ t = s) ∨
    (s.err = 0 ∧ (!digitsOwed s && charsOwed s) = true ∧ s.i.toNat < Config.cap ∧
      t = ((s.withCell s.i.toNat Config.padChar).withIndex (s.i + 1)).withLength (s.i + 1)) ∨
    (s.err = 0 ∧ (!digitsOwed s && charsOwed s) = false ∧ t = s.withErr (FaultCode.code .seq)) := by
  obtain hidle | ⟨he, h⟩ := whenRunning_next h
  · exact .inl hidle
  · rw [raise_running he] at h
    split at h
    case isTrue howed => exact .inr (.inl ⟨he, howed, appendChar_next h⟩)
    case isFalse howed =>
      exact .inr (.inr ⟨he, Bool.eq_false_iff.2 howed, (Host.Outcome.next.inj h).symm⟩)

/-- `DIN` makes the decoder's registers ready (R190). -/
theorem execDin_next {s t : State} (h : execDin s = .next t) :
    (s.err ≠ 0 ∧ t = s) ∨
    (s.err = 0 ∧ t = (((s.withPoint 0 0).withZoom 0xF8).withIndex 0).withStop false) :=
  (whenRunning_next h).imp_right fun ⟨he, h⟩ => ⟨he, (Host.Outcome.next.inj h).symm⟩

/-- A read at a character the string has finds its cell. -/
theorem memRead_of_hasCharAt {s : State} {n : Nat} (h : hasCharAt s n = true) (use : Byte → Result) :
    memRead (s.i.toNat + n) s use = use (s.cbuf.cellAt (s.i.toNat + n)) :=
  if_pos (hasCharAt_lt_cap h)

@[inherit_doc memRead_of_hasCharAt]
theorem memRead_index_of_hasCharAt {s : State} (h : hasCharAt s 0 = true) (use : Byte → Result) :
    memRead s.i.toNat s use = use (s.cbuf.cellAt s.i.toNat) := memRead_of_hasCharAt h use

/-- A pad ahead of `I` is a character of the string that is the pad character (R195). -/
theorem padAt_ahead (s : State) (n : Nat) :
    padAt s (s.i.toNat + n) = (hasCharAt s n && s.cbuf.cellAt (s.i.toNat + n) == Config.padChar) := rfl

@[inherit_doc padAt_ahead]
theorem padAt_index (s : State) :
    padAt s s.i.toNat = (hasCharAt s 0 && s.cbuf.cellAt s.i.toNat == Config.padChar) := rfl

/-- `ACC` stops, at the end of the string or at a byte that is no digit, or folds one digit in (R192). -/
theorem execAcc_next {s t : State} (h : execAcc s = .next t) :
    (s.err ≠ 0 ∧ t = s) ∨
    (s.err = 0 ∧ (s.stop = true ∨ hasCharAt s 0 = false ∨ charDigit (s.cbuf.cellAt s.i.toNat) = none) ∧
      t = s.withStop true) ∨
    (s.err = 0 ∧ s.stop = false ∧ hasCharAt s 0 = true ∧
      ∃ d, charDigit (s.cbuf.cellAt s.i.toNat) = some d ∧ t = foldDigit d s) := by
  obtain hidle | ⟨he, h⟩ := whenRunning_next h
  · exact .inl hidle
  · split at h
    case isTrue hend =>
      have hend : s.stop = true ∨ hasCharAt s 0 = false := by simpa using hend
      exact .inr (.inl ⟨he, hend.imp_right .inl, (Host.Outcome.next.inj h).symm⟩)
    case isFalse hgo =>
      have ⟨hstop, hchar⟩ : s.stop = false ∧ hasCharAt s 0 = true := by simpa using hgo
      rw [memRead_index_of_hasCharAt hchar] at h
      cases hd : charDigit (s.cbuf.cellAt s.i.toNat) with
      | none => exact .inr (.inl ⟨he, .inr (.inr rfl), by simp_all⟩)
      | some d => exact .inr (.inr ⟨he, hstop, hchar, d, rfl, by simp_all⟩)

/-- `ZADJ` on a running core lowers the zoom by what the pads at `I` say: by 2 for one pad, by 1 for two, not at all
for none; the second position counts only after the first (R195, R196). -/
theorem execZadj_running {s : State} (he : s.err = 0) :
    execZadj s = .next (if padAt s s.i.toNat then
      (if padAt s (s.i.toNat + 1) then s.withZoom (s.zoom - 2 + 1) else s.withZoom (s.zoom - 2)) else s) := by
  rw [execZadj, whenRunning_running he, padAt_index, padAt_ahead]
  cases hchar : hasCharAt s 0 with
  | false => simp
  | true =>
    rw [if_pos rfl, memRead_index_of_hasCharAt hchar]
    by_cases hc : s.cbuf.cellAt s.i.toNat = Config.padChar
    · rw [if_pos hc, hc]
      cases hchar' : hasCharAt s 1 with
      | false => simp
      | true =>
        rw [if_pos rfl, memRead_of_hasCharAt hchar']
        split <;> simp_all
    · rw [if_neg hc, if_neg (by simpa using hc)]

@[inherit_doc execZadj_running]
theorem execZadj_next {s t : State} (h : execZadj s = .next t) :
    (s.err ≠ 0 ∧ t = s) ∨
    (s.err = 0 ∧ padAt s s.i.toNat = false ∧ t = s) ∨
    (s.err = 0 ∧ padAt s s.i.toNat = true ∧ padAt s (s.i.toNat + 1) = false ∧ t = s.withZoom (s.zoom - 2)) ∨
    (s.err = 0 ∧ padAt s s.i.toNat = true ∧ padAt s (s.i.toNat + 1) = true ∧
      t = s.withZoom (s.zoom - 2 + 1)) := by
  by_cases he : s.err = 0
  · rw [execZadj_running he, Host.Outcome.next.injEq] at h
    cases hpad : padAt s s.i.toNat <;> cases hpad' : padAt s (s.i.toNat + 1) <;> simp_all
  · exact .inl ⟨he, (Host.Outcome.next.inj ((whenRunning_faulted he _).symm.trans h)).symm⟩

/-! ### The sequences `ENC` and `DEC` -/

/-- A command, or a part of one, never leaves the states of `P`. -/
def Preserves (P : State → Prop) (act : State → Result) : Prop := ∀ s t, P s → act s = .next t → P t

section Preserves
variable {P : State → Prop}

theorem preserves_whenRunning {act : State → Result} (hact : Preserves P act) :
    Preserves P fun s => whenRunning s act := by
  intro s t hs h
  obtain ⟨-, rfl⟩ | ⟨-, h⟩ := whenRunning_next h
  · exact hs
  · exact hact s t hs h

theorem preserves_andThen {first rest : State → Result} (hfirst : Preserves P first) (hrest : Preserves P rest) :
    Preserves P fun s => andThen (first s) rest := by
  intro s t hs h
  obtain ⟨u, hu, ⟨-, h⟩ | ⟨-, rfl⟩⟩ := andThen_next h
  · exact hrest u t (hfirst s u hs hu) h
  · exact hfirst s t hs hu

theorem preserves_repeatWhile {body : State → Result} (hbody : Preserves P body) (n : Nat) (cond : State → Bool) :
    Preserves P (repeatWhile n cond body) :=
  fun _ _ hs h => repeatWhile_keeps hbody n hs h

/-- `ENC` keeps what its six commands keep (R75, R170). -/
theorem preserves_execEnc (hqnt : Preserves P execQnt) (hmrt : Preserves P execMrt) (hlen : Preserves P execLen)
    (hein : Preserves P execEin) (hemit : Preserves P execEmit) (hpadc : Preserves P execPadc) :
    Preserves P execEnc :=
  preserves_whenRunning <| preserves_andThen hqnt <| preserves_andThen hmrt <| preserves_andThen hlen <|
    preserves_andThen hein <| preserves_andThen (preserves_repeatWhile hemit 16 digitsOwed) <|
    preserves_repeatWhile hpadc 16 charsOwed

/-- `DEC` keeps what its four commands keep (R75, R198). -/
theorem preserves_execDec (hdin : Preserves P execDin) (hacc : Preserves P execAcc) (hdqn : Preserves P execDqn)
    (hzadj : Preserves P execZadj) : Preserves P execDec :=
  preserves_whenRunning <| preserves_andThen hdin <|
    preserves_andThen (preserves_repeatWhile hacc 17 notStopped) <| preserves_andThen hdqn hzadj

end Preserves

/-! ### Command words, host actions and steps -/

/-- A command word runs the command it names, or raises `E_ILLCMD` (R73, R221). -/
theorem runWord_next {w : Byte} {s t : State} (h : runWord w s = .next t) :
    (∃ i, decode w = .ok i ∧ exec i s = .next t) ∨
    ((∃ e, decode w = .error e) ∧ t = raise .illCmd s) := by
  cases hw : decode w with
  | ok i => exact .inl ⟨i, rfl, by rwa [runWord_of_ok hw] at h⟩
  | error e =>
    rw [runWord_of_error hw] at h
    exact .inr ⟨⟨e, rfl⟩, (Host.Outcome.next.inj h).symm⟩

/-- A host action other than a command or reset reaches none of the registers that the host cannot write (R235). -/
theorem runAction_keeps_unwritable {a : HostAction} {s t : State} (hcmd : ∀ w, a ≠ .command w)
    (hreset : a ≠ .reset) (h : runAction a s = .next t) :
    t.x = s.x ∧ t.y = s.y ∧ t.c1 = s.c1 ∧ t.c2 = s.c2 ∧ t.nd = s.nd ∧ t.np = s.np ∧ t.i = s.i ∧
      t.stop = s.stop ∧ t.err = s.err := by
  cases a with
  | command w => exact absurd rfl (hcmd w)
  | reset => exact absurd rfl hreset
  | writeCbuf k c =>
    rw [runAction_writeCbuf, Host.Outcome.next.injEq] at h
    subst h; simp
  | _ => obtain rfl := Host.Outcome.next.inj h; simp

/-- A step with nothing pending changes nothing; any other takes the first pending action off and does it (R251). -/
theorem step_next {s t : State} (h : step s = .next t) :
    (s.host = [] ∧ t = s) ∨ ∃ a rest, s.host = a :: rest ∧ runAction a (s.withHost rest) = .next t := by
  rw [step] at h
  split at h
  case h_1 hnil => exact .inl ⟨hnil, (Host.Outcome.next.inj h).symm⟩
  case h_2 a rest hcons => exact .inr ⟨a, rest, hcons, h⟩

end Sys2Proof.Machine
end

section
/-! The invariant of the machine: which register writes keep it, and so which commands, host actions and steps. -/

namespace Sys2Proof.Machine

/-! ### Bounds on what `MRT` and `LEN` write -/

/-- The bits of `interleave`: the odd ones from the first operand, the even ones from the second (R78, R122). -/
theorem interleave_getLsbD (a b : BitVec 16) (j : Nat) :
    (interleave a b).getLsbD j =
      (decide (j < 32) && if j % 2 = 1 then a.getLsbD (j / 2) else b.getLsbD (j / 2)) := by
  rw [interleave, BitVec.getLsbD_or, BitVec.getLsbD_shiftLeft, spread16_getLsbD, spread16_getLsbD]
  obtain hj | hj := Nat.mod_two_eq_zero_or_one j
  · cases j with
    | zero => simp
    | succ k =>
      have hk : k % 2 = 1 := by omega
      simp [hj, hk]
  · have hsub : (j - 1) % 2 = 0 := by omega
    have hdiv : (j - 1) / 2 = j / 2 := by omega
    have hpos : ¬ j < 1 := by omega
    by_cases hlt : j < 32
    · have : j - 1 < 32 := by omega
      simp [hj, hsub, hdiv, hpos, hlt, this]
    · simp [hlt]

/-- `interleave` of two `n`-bit operands has `2n` bits (R124). -/
theorem interleave_toNat_lt {a b : BitVec 16} {n : Nat} (ha : a.toNat < 2 ^ n) (hb : b.toNat < 2 ^ n) :
    (interleave a b).toNat < 2 ^ (2 * n) := by
  refine Nat.lt_pow_two_of_testBit _ fun j hj => ?_
  have hhigh : ∀ c : BitVec 16, c.toNat < 2 ^ n → c.getLsbD (j / 2) = false := fun c hc =>
    Nat.testBit_lt_two_pow (hc.trans_le (Nat.pow_le_pow_right (by decide) (by omega)))
  rw [BitVec.testBit_toNat, interleave_getLsbD, hhigh a ha, hhigh b hb]
  simp

/-- The operand of a first tier has 15 bits (R126). -/
theorem hiOperand_toNat_lt (v : Grid) : (hiOperand v).toNat < 2 ^ 15 := by
  simp [hiOperand]; omega

/-- The operand of a second tier has 15 bits (R126). -/
theorem loOperand_toNat_lt (v : Grid) : (loOperand v).toNat < 2 ^ 15 := by
  simp [loOperand]; omega

/-- A zoom `LEN` accepts gives at most 10 digits (R162). -/
theorem ndigits_le_of_zoomLegal {z : Int} (hz : zoomLegal z = true) : ndigits z ≤ 10 := by
  have hz : -8 ≤ z ∧ z ≤ 22 := by simpa [zoomLegal] using hz
  simp only [ndigits, Config.zoomBias]; omega

/-- There are at most 2 pads, whatever the zoom (R161). -/
theorem npads_le (z : Int) : npads z ≤ 2 := by
  simp only [npads, Config.zoomBias]; omega

/-! ### Register writes and the invariant -/

section writes
variable (s : State)

@[simp] theorem State.inv_withCoord (lo la : Pattern) : (s.withCoord lo la).inv = s.inv := rfl
@[simp] theorem State.inv_withPoint (x y : Grid) : (s.withPoint x y).inv = s.inv := rfl
@[simp] theorem State.inv_withZoom (z : BitVec 8) : (s.withZoom z).inv = s.inv := rfl
@[simp] theorem State.inv_withIndex (i : BitVec 4) : (s.withIndex i).inv = s.inv := rfl
@[simp] theorem State.inv_withLength (n : BitVec 4) : (s.withLength n).inv = s.inv := rfl
@[simp] theorem State.inv_withStop (b : Bool) : (s.withStop b).inv = s.inv := rfl
@[simp] theorem State.inv_withHost (as : List HostAction) : (s.withHost as).inv = s.inv := rfl

end writes

/-- A digit folded in touches nothing the invariant speaks of. -/
@[simp] theorem State.inv_foldDigit (d : Digit) (s : State) : (foldDigit d s).inv = s.inv := rfl

/-- A write to a cell the buffer has keeps the canonical form. -/
theorem State.inv_withCell {s : State} (hs : s.inv = true) {k : Nat} (hk : k < Config.cap) (v : Byte) :
    (s.withCell k v).inv = true := by
  rw [State.inv_iff] at hs ⊢
  exact ⟨Memory.wf_put hs.1 hk v, hs.2⟩

/-- Tiers of 30 bits keep the invariant (R24). -/
theorem State.inv_withTiers {s : State} (hs : s.inv = true) {a b : Tier} (ha : a.toNat < 2 ^ 30)
    (hb : b.toNat < 2 ^ 30) : (s.withTiers a b).inv = true := by
  rw [State.inv_iff] at hs ⊢
  obtain ⟨hbuf, hnd, hnp, hsum, herr, -, -⟩ := hs
  exact ⟨hbuf, hnd, hnp, hsum, herr, ha, hb⟩

/-- Counts in their bounds keep the invariant (R25). -/
theorem State.inv_withCounts {s : State} (hs : s.inv = true) {n p : Nat} (hn : n ≤ 10) (hp : p ≤ 2) :
    (s.withCounts (BitVec.ofNat 4 n) (BitVec.ofNat 2 p)).inv = true := by
  rw [State.inv_iff] at hs ⊢
  obtain ⟨hbuf, -, -, -, herr, hc1, hc2⟩ := hs
  have hn' : (BitVec.ofNat 4 n).toNat = n := by simp; omega
  have hp' : (BitVec.ofNat 2 p).toNat = p := by simp; omega
  simp only [State.withCounts_nd, State.withCounts_np, hn', hp']
  exact ⟨hbuf, hn, hp, by omega, herr, hc1, hc2⟩

/-- The fault codes are 1 to 4 (R31). -/
theorem FaultCode.code_toNat_le (f : FaultCode) : f.code.toNat ≤ 4 := by cases f <;> decide

/-- A fault's code is one that `ERR` may hold (R31). -/
theorem State.inv_withErr_code {s : State} (hs : s.inv = true) (f : FaultCode) : (s.withErr f.code).inv = true := by
  rw [State.inv_iff] at hs ⊢
  obtain ⟨hbuf, hnd, hnp, hsum, -, htiers⟩ := hs
  exact ⟨hbuf, hnd, hnp, hsum, f.code_toNat_le, htiers⟩

/-- Raising a fault keeps the invariant, on a running and on a faulted core. -/
theorem State.inv_raise {s : State} (hs : s.inv = true) (f : FaultCode) : (raise f s).inv = true := by
  by_cases he : s.err = 0
  · rw [raise_running he]; exact State.inv_withErr_code hs f
  · rwa [raise_faulted he]

/-- Appending a character at an index the buffer has keeps the invariant. -/
theorem State.inv_append {s : State} (hs : s.inv = true) {k : Nat} (hk : k < Config.cap) (c : Byte) (n m : BitVec 4) :
    (((s.withCell k c).withIndex n).withLength m).inv = true :=
  State.inv_withCell hs hk c

/-- The invariant at reset: every register it speaks of is 0 and no cell is listed. -/
theorem State.inv_reset : State.reset.inv = true :=
  (State.inv_iff _).2 ⟨Memory.wf_nil, by decide⟩

/-- Reset establishes the invariant from any state. -/
theorem State.inv_resetCore (s : State) : (resetCore s).inv = true :=
  (State.inv_withHost State.reset s.host).trans State.inv_reset

/-! ### Commands, host actions and steps keep the invariant -/

theorem preserves_inv_execQnt : Preserves (·.inv = true) execQnt := by
  intro s t hs h
  obtain ⟨-, rfl⟩ | ⟨-, qx, qy, -, -, rfl⟩ | ⟨-, -, rfl⟩ := execQnt_next h
  · exact hs
  · simpa using hs
  · exact State.inv_withErr_code hs .nonFinite

theorem preserves_inv_execDqn : Preserves (·.inv = true) execDqn := by
  intro s t hs h
  obtain ⟨-, rfl⟩ | ⟨-, rfl⟩ := execDqn_next h
  · exact hs
  · simpa using hs

/-- `MRT` writes two codes of 15-bit operands, so 30 bits each (R126). -/
theorem preserves_inv_execMrt : Preserves (·.inv = true) execMrt := by
  intro s t hs h
  obtain ⟨-, rfl⟩ | ⟨-, rfl⟩ := execMrt_next h
  · exact hs
  · exact State.inv_withTiers hs (interleave_toNat_lt (hiOperand_toNat_lt _) (hiOperand_toNat_lt _))
      (interleave_toNat_lt (loOperand_toNat_lt _) (loOperand_toNat_lt _))

/-- `LEN` writes counts only for a zoom in range, where they are in theirs (R162). -/
theorem preserves_inv_execLen : Preserves (·.inv = true) execLen := by
  intro s t hs h
  obtain ⟨-, rfl⟩ | ⟨-, hz, rfl⟩ | ⟨-, -, rfl⟩ := execLen_next h
  · exact hs
  · exact State.inv_withCounts hs (ndigits_le_of_zoomLegal hz) (npads_le _)
  · exact State.inv_withErr_code hs .zoom

theorem preserves_inv_execEin : Preserves (·.inv = true) execEin := by
  intro s t hs h
  obtain ⟨-, rfl⟩ | ⟨-, rfl⟩ := execEin_next h
  · exact hs
  · simpa using hs

theorem preserves_inv_execEmit : Preserves (·.inv = true) execEmit := by
  intro s t hs h
  obtain ⟨-, rfl⟩ | ⟨-, -, hi, rfl⟩ | ⟨-, -, rfl⟩ := execEmit_next h
  · exact hs
  · exact State.inv_append hs hi _ _ _
  · exact State.inv_withErr_code hs .seq

theorem preserves_inv_execPadc : Preserves (·.inv = true) execPadc := by
  intro s t hs h
  obtain ⟨-, rfl⟩ | ⟨-, -, hi, rfl⟩ | ⟨-, -, rfl⟩ := execPadc_next h
  · exact hs
  · exact State.inv_append hs hi _ _ _
  · exact State.inv_withErr_code hs .seq

theorem preserves_inv_execDin : Preserves (·.inv = true) execDin := by
  intro s t hs h
  obtain ⟨-, rfl⟩ | ⟨-, rfl⟩ := execDin_next h
  · exact hs
  · simpa using hs

theorem preserves_inv_execAcc : Preserves (·.inv = true) execAcc := by
  intro s t hs h
  obtain ⟨-, rfl⟩ | ⟨-, -, rfl⟩ | ⟨-, -, -, d, -, rfl⟩ := execAcc_next h
  · exact hs
  · simpa using hs
  · simpa using hs

theorem preserves_inv_execZadj : Preserves (·.inv = true) execZadj := by
  intro s t hs h
  obtain ⟨-, rfl⟩ | ⟨-, -, rfl⟩ | ⟨-, -, -, rfl⟩ | ⟨-, -, -, rfl⟩ := execZadj_next h
  · exact hs
  · exact hs
  · simpa using hs
  · simpa using hs

/-- Every command keeps the invariant. -/
theorem preserves_inv_exec (i : Instr) : Preserves (·.inv = true) (exec i) := by
  cases i with
  | qnt => exact preserves_inv_execQnt
  | dqn => exact preserves_inv_execDqn
  | mrt => exact preserves_inv_execMrt
  | enc =>
    exact preserves_execEnc preserves_inv_execQnt preserves_inv_execMrt preserves_inv_execLen preserves_inv_execEin
      preserves_inv_execEmit preserves_inv_execPadc
  | len => exact preserves_inv_execLen
  | ein => exact preserves_inv_execEin
  | emit => exact preserves_inv_execEmit
  | padc => exact preserves_inv_execPadc
  | dec =>
    exact preserves_execDec preserves_inv_execDin preserves_inv_execAcc preserves_inv_execDqn preserves_inv_execZadj
  | din => exact preserves_inv_execDin
  | acc => exact preserves_inv_execAcc
  | zadj => exact preserves_inv_execZadj

/-- Every command word keeps the invariant, legal or not. -/
theorem preserves_inv_runWord (w : Byte) : Preserves (·.inv = true) (runWord w) := by
  intro s t hs h
  obtain ⟨i, -, h⟩ | ⟨-, rfl⟩ := runWord_next h
  · exact preserves_inv_exec i s t hs h
  · exact State.inv_raise hs .illCmd

/-- Every host action keeps the invariant: a command by its own lemma, reset by establishing it, and the others because
they write only what the invariant does not speak of, or one cell. -/
theorem preserves_inv_runAction (a : HostAction) : Preserves (·.inv = true) (runAction a) := by
  intro s t hs h
  cases a with
  | command w => exact preserves_inv_runWord w s t hs h
  | reset =>
    obtain rfl := Host.Outcome.next.inj h
    exact State.inv_resetCore s
  | writeCbuf k c =>
    rw [runAction_writeCbuf, Host.Outcome.next.injEq] at h
    exact h ▸ State.inv_withCell hs k.isLt c
  | _ =>
    obtain rfl := Host.Outcome.next.inj h
    exact hs

theorem preserves_inv_step : Preserves (·.inv = true) step := by
  intro s t hs h
  obtain ⟨-, rfl⟩ | ⟨a, rest, -, h⟩ := step_next h
  · exact hs
  · exact preserves_inv_runAction a _ t (by simpa using hs) h

/-- Settles O57: the invariant is inductive, by cases on the pending host action and then on the command. -/
theorem stepKeepsInvariant : Obligations.StepKeepsInvariant :=
  fun s t hs h => preserves_inv_step s t hs h

/-- Settles O56: the initial case of the invariant. -/
theorem invariantHoldsAtReset : Obligations.InvariantHoldsAtReset := State.inv_reset

end Sys2Proof.Machine
end

section
/-! Which registers each command writes (10_state.md R20, the column "written by commands"): one frame lemma for each
command, the state after it being the state before with those registers replaced. -/

namespace Sys2Proof.Machine

/-! ### The commands that are no sequences -/

section frames
variable {s t : State}

theorem execQnt_frame (h : execQnt s = .next t) : t = { s with x := t.x, y := t.y, err := t.err } := by
  obtain ⟨-, rfl⟩ | ⟨-, qx, qy, -, -, rfl⟩ | ⟨-, -, rfl⟩ := execQnt_next h <;> rfl

theorem execDqn_frame (h : execDqn s = .next t) : t = { s with lat := t.lat, lon := t.lon } := by
  obtain ⟨-, rfl⟩ | ⟨-, rfl⟩ := execDqn_next h <;> rfl

theorem execMrt_frame (h : execMrt s = .next t) : t = { s with c1 := t.c1, c2 := t.c2 } := by
  obtain ⟨-, rfl⟩ | ⟨-, rfl⟩ := execMrt_next h <;> rfl

theorem execLen_frame (h : execLen s = .next t) : t = { s with nd := t.nd, np := t.np, err := t.err } := by
  obtain ⟨-, rfl⟩ | ⟨-, -, rfl⟩ | ⟨-, -, rfl⟩ := execLen_next h <;> rfl

theorem execEin_frame (h : execEin s = .next t) : t = { s with i := t.i, clen := t.clen } := by
  obtain ⟨-, rfl⟩ | ⟨-, rfl⟩ := execEin_next h <;> rfl

theorem execEmit_frame (h : execEmit s = .next t) :
    t = { s with i := t.i, clen := t.clen, cbuf := t.cbuf, err := t.err } := by
  obtain ⟨-, rfl⟩ | ⟨-, -, -, rfl⟩ | ⟨-, -, rfl⟩ := execEmit_next h <;> rfl

theorem execPadc_frame (h : execPadc s = .next t) :
    t = { s with i := t.i, clen := t.clen, cbuf := t.cbuf, err := t.err } := by
  obtain ⟨-, rfl⟩ | ⟨-, -, -, rfl⟩ | ⟨-, -, rfl⟩ := execPadc_next h <;> rfl

theorem execDin_frame (h : execDin s = .next t) :
    t = { s with x := t.x, y := t.y, zoom := t.zoom, i := t.i, stop := t.stop } := by
  obtain ⟨-, rfl⟩ | ⟨-, rfl⟩ := execDin_next h <;> rfl

theorem execAcc_frame (h : execAcc s = .next t) :
    t = { s with x := t.x, y := t.y, zoom := t.zoom, i := t.i, stop := t.stop } := by
  obtain ⟨-, rfl⟩ | ⟨-, -, rfl⟩ | ⟨-, -, -, d, -, rfl⟩ := execAcc_next h <;> rfl

theorem execZadj_frame (h : execZadj s = .next t) : t = { s with zoom := t.zoom } := by
  obtain ⟨-, rfl⟩ | ⟨-, -, rfl⟩ | ⟨-, -, -, rfl⟩ | ⟨-, -, -, rfl⟩ := execZadj_next h <;> rfl

end frames

/-! ### The sequences -/

/-- The registers no command of the sequence `ENC` writes. -/
def State.outsideEnc (s : State) : Pattern × Pattern × BitVec 8 × Bool × List HostAction :=
  (s.lat, s.lon, s.zoom, s.stop, s.host)

/-- The registers no command of the sequence `DEC` writes. -/
def State.outsideDec (s : State) :
    Tier × Tier × BitVec 4 × BitVec 2 × BitVec 4 × Memory × BitVec 3 × List HostAction :=
  (s.c1, s.c2, s.nd, s.np, s.clen, s.cbuf, s.err, s.host)

/-- States that agree outside `ENC` differ only in the registers its commands write. -/
theorem State.outsideEnc_eq_iff {s t : State} :
    t.outsideEnc = s.outsideEnc ↔
      t = { s with x := t.x, y := t.y, c1 := t.c1, c2 := t.c2, nd := t.nd, np := t.np, i := t.i, clen := t.clen,
                   cbuf := t.cbuf, err := t.err } := by
  cases s; cases t; simp [State.outsideEnc]

/-- States that agree outside `DEC` differ only in the registers its commands write. -/
theorem State.outsideDec_eq_iff {s t : State} :
    t.outsideDec = s.outsideDec ↔
      t = { s with lat := t.lat, lon := t.lon, zoom := t.zoom, x := t.x, y := t.y, i := t.i, stop := t.stop } := by
  cases s; cases t; simp [State.outsideDec]

/-- An action after which `f` is as before keeps whatever value `f` has. -/
theorem preserves_eq_of_unchanged {α : Type} {f : State → α} {act : State → Result}
    (hact : ∀ s t, act s = .next t → f t = f s) (a : α) : Preserves (f · = a) act :=
  fun s t hs h => (hact s t h).trans hs

theorem execEnc_frame {s t : State} (h : execEnc s = .next t) :
    t = { s with x := t.x, y := t.y, c1 := t.c1, c2 := t.c2, nd := t.nd, np := t.np, i := t.i, clen := t.clen,
                 cbuf := t.cbuf, err := t.err } :=
  State.outsideEnc_eq_iff.1 <| preserves_execEnc (P := (·.outsideEnc = s.outsideEnc))
    (preserves_eq_of_unchanged (fun _ _ h => (congrArg State.outsideEnc (execQnt_frame h) :)) _)
    (preserves_eq_of_unchanged (fun _ _ h => (congrArg State.outsideEnc (execMrt_frame h) :)) _)
    (preserves_eq_of_unchanged (fun _ _ h => (congrArg State.outsideEnc (execLen_frame h) :)) _)
    (preserves_eq_of_unchanged (fun _ _ h => (congrArg State.outsideEnc (execEin_frame h) :)) _)
    (preserves_eq_of_unchanged (fun _ _ h => (congrArg State.outsideEnc (execEmit_frame h) :)) _)
    (preserves_eq_of_unchanged (fun _ _ h => (congrArg State.outsideEnc (execPadc_frame h) :)) _) s t rfl h

theorem execDec_frame {s t : State} (h : execDec s = .next t) :
    t = { s with lat := t.lat, lon := t.lon, zoom := t.zoom, x := t.x, y := t.y, i := t.i, stop := t.stop } :=
  State.outsideDec_eq_iff.1 <| preserves_execDec (P := (·.outsideDec = s.outsideDec))
    (preserves_eq_of_unchanged (fun _ _ h => (congrArg State.outsideDec (execDin_frame h) :)) _)
    (preserves_eq_of_unchanged (fun _ _ h => (congrArg State.outsideDec (execAcc_frame h) :)) _)
    (preserves_eq_of_unchanged (fun _ _ h => (congrArg State.outsideDec (execDqn_frame h) :)) _)
    (preserves_eq_of_unchanged (fun _ _ h => (congrArg State.outsideDec (execZadj_frame h) :)) _) s t rfl h

/-- Settles O59, by cases on the command: each register outside a command's frame is the old one. -/
theorem registersWrittenByCommand : Obligations.RegistersWrittenByCommand := by
  intro i s t h
  cases i with
  | qnt => rw [execQnt_frame h]; simp
  | dqn => rw [execDqn_frame h]; simp
  | mrt => rw [execMrt_frame h]; simp
  | enc => rw [execEnc_frame h]; simp
  | len => rw [execLen_frame h]; simp
  | ein => rw [execEin_frame h]; simp
  | emit => rw [execEmit_frame h]; simp
  | padc => rw [execPadc_frame h]; simp
  | dec => rw [execDec_frame h]; simp
  | din => rw [execDin_frame h]; simp
  | acc => rw [execAcc_frame h]; simp
  | zadj => rw [execZadj_frame h]; simp

end Sys2Proof.Machine
end

section
/-! What the host reads as `STATUS`, what a reset leaves, and the writes that present a string. -/

namespace Sys2Proof.Machine

/-! ### `STATUS` and reset -/

/-- Bit 3 of the status word is `STOP` (R29). -/
theorem statusWord_getLsbD_three (s : State) : (statusWord s).getLsbD 3 = s.stop := by
  rw [statusWord, BitVec.getLsbD_append]; simp

/-- Bits 2..0 of the status word are `ERR` (R29). -/
theorem statusWord_extractLsb'_zero (s : State) : (statusWord s).extractLsb' 0 3 = s.err := by
  refine BitVec.eq_of_getLsbD_eq fun j hj => ?_
  rw [BitVec.getLsbD_extractLsb', statusWord, BitVec.getLsbD_append]; simp [hj]

/-- Settles O8: the word's layout, and its two fields are registers no host write reaches. -/
theorem statusWordLayout : Obligations.StatusWordLayout := by
  refine ⟨fun s => ⟨statusWord_getLsbD_three s, statusWord_extractLsb'_zero s, rfl⟩, ?_⟩
  intro s t a hcmd hreset h
  obtain ⟨-, -, -, -, -, -, -, hstop, herr⟩ := runAction_keeps_unwritable hcmd hreset h
  rw [statusWord, statusWord, hstop, herr]

/-- Settles O10: reset replaces everything but the pending actions by `State.reset`. -/
theorem resetClearsEveryBit : Obligations.ResetClearsEveryBit := by
  intro s
  refine ⟨resetCore s, rfl, ?_⟩
  simp [State.reset]

/-! ### Presenting a string -/

/-- A run goes on with the remaining actions where its first part ends. -/
theorem runActions_append {as : List HostAction} {s t : State} (h : runActions as s = .next t)
    (bs : List HostAction) : runActions (as ++ bs) s = runActions bs t := by
  induction as generalizing s with
  | nil => rw [List.nil_append, Host.Outcome.next.inj h]
  | cons a as ih =>
    rw [List.cons_append, runActions]
    rw [runActions] at h
    split at h
    case h_1 u hu => exact ih h
    all_goals simp at h

/-- The host's writes of the characters of `str` to those of the cells `ks` that it has a character for. -/
def charWrites (str : List Byte) (ks : List (Fin 15)) : List HostAction :=
  ks.filterMap fun k => str[k.val]?.map (HostAction.writeCbuf k)

/-- A string that fits is presented by writing its characters and then its length (R75). -/
theorem presentString_of_fits {str : List Byte} (h : str.length ≤ 15) :
    presentString str =
      some (charWrites str (List.finRange 15) ++ [.writeClen (BitVec.ofNat 4 str.length)]) :=
  if_pos (decide_eq_true h)

/-- A string longer than the buffer is not presented (R28). -/
theorem presentString_of_long {str : List Byte} (h : 15 < str.length) : presentString str = none :=
  if_neg (by simpa [presentable] using h)

/-- The writes of a string's characters to the cells `ks` put its characters into these cells and change nothing
else. -/
theorem runActions_charWrites (str : List Byte) (ks : List (Fin 15)) (s : State) (hwf : s.cbuf.wf = true) :
    ∃ m : Memory, runActions (charWrites str ks) s = .next { s with cbuf := m } ∧
      ∀ j, m.cellAt j = if j ∈ ks.map Fin.val then str[j]?.getD (s.cbuf.cellAt j) else s.cbuf.cellAt j := by
  induction ks generalizing s with
  | nil => exact ⟨s.cbuf, rfl, fun j => by simp⟩
  | cons k ks ih =>
    cases hk : str[k.val]? with
    | none =>
      obtain ⟨m, hrun, hcell⟩ := ih s hwf
      refine ⟨m, by simpa [charWrites, hk] using hrun, fun j => ?_⟩
      by_cases hj : j = k.val
      · simp [hcell, hj, hk]
      · simp [hcell, hj]
    | some c =>
      obtain ⟨m, hrun, hcell⟩ := ih (s.withCell k.val c) (Memory.wf_put hwf k.isLt c)
      refine ⟨m, ?_, fun j => ?_⟩
      · rw [charWrites, List.filterMap_cons_some (by rw [hk]; rfl), runActions, runAction_writeCbuf]
        exact hrun
      · rw [hcell, State.withCell_cbuf, Memory.cellAt_put hwf]
        by_cases hj : j = k.val
        · simp [hj, hk]
        · simp [hj]

/-- A state whose first cells hold the characters of `str` and whose `CLEN` is their number holds `str` (R27). -/
theorem codeString_eq_of_cells {str : List Byte} {s : State} (hlen : s.clen.toNat = str.length)
    (hcell : ∀ j (hj : j < str.length), s.cbuf.cellAt j = str[j]) : codeString s = str := by
  refine List.ext_getElem (by simp [codeString, hlen]) fun j _ hj => ?_
  simp [codeString, hcell j hj]

/-- Settles O9: the cell writes put each character in its cell, and the last write its length in `CLEN`. -/
theorem presentedStringIsHeld : Obligations.PresentedStringIsHeld := by
  refine ⟨fun str s hlen hwf => ?_, fun str h => presentString_of_long h⟩
  obtain ⟨m, hrun, hcell⟩ := runActions_charWrites str (List.finRange 15) s hwf
  have hmem : ∀ j, j ∈ (List.finRange 15).map Fin.val ↔ j < 15 := by simp
  refine ⟨_, { s with cbuf := m, clen := BitVec.ofNat 4 str.length }, presentString_of_fits hlen,
    (runActions_append hrun _).trans rfl, rfl, codeString_eq_of_cells ?_ fun j hj => ?_, fun j hj => ?_⟩
  · show (BitVec.ofNat 4 str.length).toNat = str.length
    simp; omega
  · rw [hcell, if_pos ((hmem j).2 (by omega)), List.getElem?_eq_getElem hj, Option.getD_some]
  · rw [hcell, List.getElem?_eq_none hj, Option.getD_none, ite_self]

end Sys2Proof.Machine
end

section
/-! No command and no host action looks at what the host will do next: replacing the pending actions before it and
after it are the same. So the machine's own run does the pending actions one by one (60_exceptions.md R228). -/

namespace Sys2Proof.Machine

/-! ### Going on from the next state of an outcome -/

/-- Go on with `f` from the next state of an outcome; a stop stays a stop. Unlike `andThen` this goes on from a faulted
core too, as the host does (R226). -/
def bindNext (r : Result) (f : State → Result) : Result :=
  match r with
  | .next s => f s
  | .fault e => .fault e
  | .refused e => .refused e

@[simp] theorem bindNext_next (s : State) (f : State → Result) : bindNext (.next s) f = f s := rfl

theorem bindNext_assoc (r : Result) (f g : State → Result) :
    bindNext (bindNext r f) g = bindNext r fun s => bindNext (f s) g := by
  cases r <;> rfl

/-- One more action of a run of the host's. -/
theorem runActions_cons (a : HostAction) (as : List HostAction) (s : State) :
    runActions (a :: as) s = bindNext (runAction a s) (runActions as) := by
  rw [runActions]
  cases runAction a s <;> rfl

/-- The machine's own run, in the model's types. -/
def runSteps (k : Nat) (s : State) : Result := core.run k s

theorem core_run_eq (k : Nat) (s : State) : core.run k s = runSteps k s := rfl

/-- One more step of a run of the machine's. -/
theorem runSteps_succ (k : Nat) (s : State) : runSteps (k + 1) s = bindNext (step s) (runSteps k) := by
  have hrun : runSteps (k + 1) s = _ := Host.Core.run.eq_2 core s k
  have hstep : core.step s = step s := rfl
  rw [hrun, hstep]
  cases step s <;> rfl

/-- A step with an action pending takes it off the list and does it. -/
theorem step_withHost_cons (s : State) (a : HostAction) (rest : List HostAction) :
    step (s.withHost (a :: rest)) = runAction a (s.withHost rest) := rfl

/-! ### Actions that are blind to the pending host actions -/

/-- What an action does is the same whatever the host has pending, and it leaves that pending. -/
def HostBlind (act : State → Result) : Prop :=
  ∀ s l, act (s.withHost l) = bindNext (act s) fun t => .next (t.withHost l)

section combinators
variable {act first rest body : State → Result} {cond : State → Bool}

theorem hostBlind_whenRunning (hact : HostBlind act) : HostBlind fun s => whenRunning s act := by
  intro s l
  dsimp only
  by_cases he : s.err = 0
  · rw [whenRunning_running he, whenRunning_running (s := s.withHost l) he, hact]
  · rw [whenRunning_faulted he, whenRunning_faulted (s := s.withHost l) he, bindNext_next]

theorem hostBlind_andThen (hfirst : HostBlind first) (hrest : HostBlind rest) :
    HostBlind fun s => andThen (first s) rest := by
  intro s l
  dsimp only
  rw [hfirst]
  cases first s with
  | next t =>
    by_cases he : t.err = 0
    · rw [bindNext_next, andThen_of_running he, andThen_of_running (s := t.withHost l) he, hrest]
    · rw [bindNext_next, andThen_of_faulted he, andThen_of_faulted (s := t.withHost l) he, bindNext_next]
  | fault e => rfl
  | refused e => rfl

theorem hostBlind_repeatWhile (hcond : ∀ s l, cond (s.withHost l) = cond s) (hbody : HostBlind body) (n : Nat) :
    HostBlind (repeatWhile n cond body) := by
  induction n with
  | zero => exact fun _ _ => rfl
  | succ n ih =>
    intro s l
    rw [repeatWhile_succ, repeatWhile_succ, hcond]
    split
    · exact hostBlind_andThen hbody ih s l
    · rfl

end combinators

/-- Raising a fault leaves the pending actions pending. -/
theorem raise_withHost (f : FaultCode) (s : State) (l : List HostAction) :
    raise f (s.withHost l) = (raise f s).withHost l := by
  by_cases he : s.err = 0
  · rw [raise_running he, raise_running (s := s.withHost l) he]; rfl
  · rw [raise_faulted he, raise_faulted (s := s.withHost l) he]

theorem hostBlind_raise (f : FaultCode) : HostBlind fun s => .next (raise f s) :=
  fun s l => congrArg Host.Outcome.next (raise_withHost f s l)

theorem hostBlind_appendChar (c : State → Byte) (hc : ∀ s l, c (s.withHost l) = c s) :
    HostBlind fun s => appendChar (c s) s := by
  intro s l
  simp only [hc]
  by_cases hi : s.i.toNat < Config.cap
  · rw [appendChar_of_lt hi, appendChar_of_lt (s := s.withHost l) hi]; rfl
  · rw [appendChar, appendChar, memWrite, memWrite, if_neg hi, if_neg (by simpa using hi)]; rfl

/-! ### Every command is blind to them -/

theorem hostBlind_execQnt : HostBlind execQnt := by
  refine hostBlind_whenRunning fun s l => ?_
  have hlon : quantLon (s.withHost l) = quantLon s := rfl
  have hlat : quantLat (s.withHost l) = quantLat s := rfl
  rw [hlon, hlat]
  cases quantLon s with
  | none => exact hostBlind_raise .nonFinite s l
  | some qx =>
    cases quantLat s with
    | none => exact hostBlind_raise .nonFinite s l
    | some qy => rfl

theorem hostBlind_execDqn : HostBlind execDqn := hostBlind_whenRunning fun _ _ => rfl

theorem hostBlind_execMrt : HostBlind execMrt := hostBlind_whenRunning fun _ _ => rfl

theorem hostBlind_execLen : HostBlind execLen := by
  refine hostBlind_whenRunning fun s l => ?_
  have hzoom : zoomLevel (s.withHost l) = zoomLevel s := rfl
  rw [hzoom]
  split
  · rfl
  · exact hostBlind_raise .zoom s l

theorem hostBlind_execEin : HostBlind execEin := hostBlind_whenRunning fun _ _ => rfl

theorem hostBlind_execEmit : HostBlind execEmit := by
  refine hostBlind_whenRunning fun s l => ?_
  have howed : digitsOwed (s.withHost l) = digitsOwed s := rfl
  rw [howed]
  split
  · exact hostBlind_appendChar (fun s => encDigit (nextDigit s)) (fun _ _ => rfl) s l
  · exact hostBlind_raise .seq s l

theorem hostBlind_execPadc : HostBlind execPadc := by
  refine hostBlind_whenRunning fun s l => ?_
  have hdigits : digitsOwed (s.withHost l) = digitsOwed s := rfl
  have hchars : charsOwed (s.withHost l) = charsOwed s := rfl
  rw [hdigits, hchars]
  split
  · exact hostBlind_appendChar (fun _ => Config.padChar) (fun _ _ => rfl) s l
  · exact hostBlind_raise .seq s l

theorem hostBlind_execDin : HostBlind execDin := hostBlind_whenRunning fun _ _ => rfl

theorem hostBlind_execAcc : HostBlind execAcc := by
  refine hostBlind_whenRunning fun s l => ?_
  have hahead : hasCharAt (s.withHost l) 0 = hasCharAt s 0 := rfl
  rw [State.withHost_stop, hahead]
  split
  case isTrue => rfl
  case isFalse hgo =>
    have hchar : hasCharAt s 0 = true := by simp_all
    rw [memRead_index_of_hasCharAt hchar, memRead_index_of_hasCharAt (s := s.withHost l) hchar, State.withHost_cbuf,
      State.withHost_i]
    cases charDigit (s.cbuf.cellAt s.i.toNat) <;> rfl

theorem hostBlind_execZadj : HostBlind execZadj := by
  intro s l
  by_cases he : s.err = 0
  · have hpad : ∀ k, padAt (s.withHost l) k = padAt s k := fun _ => rfl
    rw [execZadj_running he, execZadj_running (s := s.withHost l) he, hpad, hpad, bindNext_next, State.withHost_i]
    split
    · split <;> rfl
    · rfl
  · rw [execZadj, execZadj, whenRunning_faulted he, whenRunning_faulted (s := s.withHost l) he, bindNext_next]

theorem hostBlind_execEnc : HostBlind execEnc :=
  hostBlind_whenRunning <| hostBlind_andThen hostBlind_execQnt <| hostBlind_andThen hostBlind_execMrt <|
    hostBlind_andThen hostBlind_execLen <| hostBlind_andThen hostBlind_execEin <|
    hostBlind_andThen (hostBlind_repeatWhile (cond := digitsOwed) (fun _ _ => rfl) hostBlind_execEmit 16) <|
    hostBlind_repeatWhile (cond := charsOwed) (fun _ _ => rfl) hostBlind_execPadc 16

theorem hostBlind_execDec : HostBlind execDec :=
  hostBlind_whenRunning <| hostBlind_andThen hostBlind_execDin <|
    hostBlind_andThen (hostBlind_repeatWhile (cond := notStopped) (fun _ _ => rfl) hostBlind_execAcc 17) <|
    hostBlind_andThen hostBlind_execDqn hostBlind_execZadj

theorem hostBlind_exec (i : Instr) : HostBlind (exec i) := by
  cases i with
  | qnt => exact hostBlind_execQnt
  | dqn => exact hostBlind_execDqn
  | mrt => exact hostBlind_execMrt
  | enc => exact hostBlind_execEnc
  | len => exact hostBlind_execLen
  | ein => exact hostBlind_execEin
  | emit => exact hostBlind_execEmit
  | padc => exact hostBlind_execPadc
  | dec => exact hostBlind_execDec
  | din => exact hostBlind_execDin
  | acc => exact hostBlind_execAcc
  | zadj => exact hostBlind_execZadj

/-! ### Command words, host actions and runs -/

theorem hostBlind_runWord (w : Byte) : HostBlind (runWord w) := by
  intro s l
  cases hw : decode w with
  | ok i => rw [runWord_of_ok hw, runWord_of_ok hw]; exact hostBlind_exec i s l
  | error e => rw [runWord_of_error hw, runWord_of_error hw]; exact hostBlind_raise .illCmd s l

/-- Every host action is blind to the ones after it; reset is, because it leaves them pending (log entry 3). -/
theorem hostBlind_runAction (a : HostAction) : HostBlind (runAction a) := by
  intro s l
  cases a with
  | command w => exact hostBlind_runWord w s l
  | writeCbuf k c => rw [runAction_writeCbuf, runAction_writeCbuf]; rfl
  | _ => rfl

/-- The machine's run on `as` in front of `rest`, by induction on `as`: the first step does the first action, which is
blind to the actions behind it. -/
theorem runSteps_withHost_append (as rest : List HostAction) (s : State) :
    runSteps as.length (s.withHost (as ++ rest)) = runActions as (s.withHost rest) := by
  induction as generalizing s with
  | nil => rfl
  | cons a as ih =>
    calc runSteps (as.length + 1) (s.withHost (a :: (as ++ rest)))
        = bindNext (runAction a (s.withHost (as ++ rest))) (runSteps as.length) := by
          rw [runSteps_succ, step_withHost_cons]
      _ = bindNext (runAction a s) fun t => runSteps as.length (t.withHost (as ++ rest)) := by
          rw [hostBlind_runAction, bindNext_assoc]; rfl
      _ = bindNext (runAction a s) fun t => runActions as (t.withHost rest) :=
          congrArg (bindNext (runAction a s)) (funext ih)
      _ = bindNext (runAction a (s.withHost rest)) (runActions as) := by
          rw [hostBlind_runAction, bindNext_assoc]; rfl
      _ = runActions (a :: as) (s.withHost rest) := (runActions_cons a as _).symm

/-- Settles O6: the induction on the pending actions, each blind to the ones behind it. -/
theorem runDoesPendingActionsInOrder : Obligations.RunDoesPendingActionsInOrder :=
  fun as rest s => (core_run_eq _ _).trans (runSteps_withHost_append as rest s)

end Sys2Proof.Machine
end

section
/-! Which commands complete: all of them in every state, but for `PADC` at the index 15 that is no cell. -/

namespace Sys2Proof.Machine

/-- An outcome that is a next state. -/
def Completes (r : Result) : Prop := ∃ t, r = .next t

theorem completes_next (s : State) : Completes (.next s) := ⟨s, rfl⟩

/-! ### The sequencing operations -/

theorem completes_whenRunning {s : State} {act : State → Result} (hact : s.err = 0 → Completes (act s)) :
    Completes (whenRunning s act) := by
  by_cases he : s.err = 0
  · rw [whenRunning_running he]; exact hact he
  · rw [whenRunning_faulted he]; exact completes_next s

theorem completes_andThen {r : Result} {rest : State → Result} (hr : Completes r)
    (hrest : ∀ t, r = .next t → t.err = 0 → Completes (rest t)) : Completes (andThen r rest) := by
  obtain ⟨t, rfl⟩ := hr
  by_cases he : t.err = 0
  · rw [andThen_of_running he]; exact hrest t rfl he
  · rw [andThen_of_faulted he]; exact completes_next t

/-- A loop completes where each turn does, if no turn leaves the states where that is so. -/
theorem completes_repeatWhile {P : State → Prop} {body : State → Result} (hkeep : Preserves P body)
    (hbody : ∀ s, P s → Completes (body s)) (n : Nat) (cond : State → Bool) {s : State} (hs : P s) :
    Completes (repeatWhile n cond body s) := by
  induction n generalizing s with
  | zero => exact completes_next s
  | succ n ih =>
    rw [repeatWhile_succ]
    split
    · exact completes_andThen (hbody s hs) fun t ht _ => ih (hkeep s t hs ht)
    · exact completes_next s

/-! ### The commands that are no sequences -/

section commands
variable (s : State)

theorem completes_execQnt : Completes (execQnt s) := by
  refine completes_whenRunning fun _ => ?_
  split
  · exact completes_next _
  · exact completes_next _

theorem completes_execDqn : Completes (execDqn s) := completes_whenRunning fun _ => completes_next _

theorem completes_execMrt : Completes (execMrt s) := completes_whenRunning fun _ => completes_next _

theorem completes_execLen : Completes (execLen s) := by
  refine completes_whenRunning fun _ => ?_
  split
  · exact completes_next _
  · exact completes_next _

theorem completes_execEin : Completes (execEin s) := completes_whenRunning fun _ => completes_next _

/-- `EMIT` appends only below `ND`, and so only at an index the buffer has. -/
theorem completes_execEmit : Completes (execEmit s) := by
  refine completes_whenRunning fun _ => ?_
  split
  case isTrue howed => rw [appendChar_of_lt (digitsOwed_lt_cap howed)]; exact completes_next _
  case isFalse => exact completes_next _

theorem completes_execDin : Completes (execDin s) := completes_whenRunning fun _ => completes_next _

/-- `ACC` reads only where the string has a character. -/
theorem completes_execAcc : Completes (execAcc s) := by
  refine completes_whenRunning fun _ => ?_
  split
  case isTrue => exact completes_next _
  case isFalse hgo =>
    have hchar : hasCharAt s 0 = true := by simp_all
    rw [memRead_index_of_hasCharAt hchar]
    split
    · exact completes_next _
    · exact completes_next _

theorem completes_execZadj : Completes (execZadj s) := by
  by_cases he : s.err = 0
  · rw [execZadj_running he]; exact completes_next _
  · exact ⟨s, whenRunning_faulted he _⟩

end commands

/-- A character is appended exactly where the buffer has the cell. -/
theorem completes_appendChar_iff (c : Byte) (s : State) : Completes (appendChar c s) ↔ s.i.toNat < Config.cap := by
  constructor
  · rintro ⟨t, ht⟩
    exact (appendChar_next ht).1
  · intro hi
    rw [appendChar_of_lt hi]; exact completes_next _

/-- `PADC` stops exactly where it is owed a pad at index 15, which is no cell (R50; log entry 5). -/
theorem not_completes_execPadc_iff (s : State) :
    ¬ Completes (execPadc s) ↔ s.err = 0 ∧ s.i = 15 ∧ 15 < s.nd.toNat + s.np.toNat := by
  have hi : s.i = 15 ↔ 15 ≤ s.i.toNat := by bv_omega
  by_cases he : s.err = 0
  · rw [execPadc, whenRunning_running he, hi]
    simp only [he, true_and]
    split
    case isTrue howed =>
      have howed : s.nd.toNat ≤ s.i.toNat ∧ s.i.toNat < s.nd.toNat + s.np.toNat := by
        simpa [digitsOwed, charsOwed] using howed
      rw [completes_appendChar_iff]
      simp only [Config.cap]; omega
    case isFalse hout =>
      have hout : s.nd.toNat ≤ s.i.toNat → s.nd.toNat + s.np.toNat ≤ s.i.toNat := by
        simpa [digitsOwed, charsOwed] using hout
      have hdone : Completes (.next (raise .seq s)) := completes_next _
      have hnd := s.nd.isLt
      have hi := s.i.isLt
      simp only [hdone, not_true_eq_false, false_iff]; omega
  · have hdone : Completes (execPadc s) := ⟨s, whenRunning_faulted he _⟩
    simp only [hdone, he, not_true_eq_false, false_and]

/-! ### The sequences -/

/-- The counts promise no more characters than an index can count. -/
def CountsFit (s : State) : Prop := s.nd.toNat + s.np.toNat ≤ 15

theorem State.countsFit_of_inv {s : State} (hs : s.inv = true) : CountsFit s := by
  obtain ⟨-, -, -, hsum, -⟩ := (State.inv_iff s).1 hs
  exact hsum.trans (by decide)

theorem completes_execPadc {s : State} (hs : CountsFit s) : Completes (execPadc s) := by
  by_contra hstop
  obtain ⟨-, -, hlong⟩ := (not_completes_execPadc_iff s).1 hstop
  exact absurd hlong (Nat.not_lt.2 hs)

theorem preserves_countsFit_execEin : Preserves CountsFit execEin := by
  intro s t hs h
  rw [execEin_frame h]; exact hs

theorem preserves_countsFit_execEmit : Preserves CountsFit execEmit := by
  intro s t hs h
  rw [execEmit_frame h]; exact hs

theorem preserves_countsFit_execPadc : Preserves CountsFit execPadc := by
  intro s t hs h
  rw [execPadc_frame h]; exact hs

/-- `LEN` without a fault leaves counts that fit, whatever they were before. -/
theorem countsFit_of_execLen {s t : State} (h : execLen s = .next t) (ht : t.err = 0) : CountsFit t := by
  obtain ⟨he, rfl⟩ | ⟨-, hz, rfl⟩ | ⟨-, -, rfl⟩ := execLen_next h
  · exact absurd ht he
  · have hnd := ndigits_le_of_zoomLegal hz
    have hnp := npads_le (zoomLevel s)
    simp only [CountsFit, State.withCounts_nd, State.withCounts_np, BitVec.toNat_ofNat]; omega
  · exact absurd ht (FaultCode.code_ne_zero .zoom)

/-- `ENC` completes in every state: its own `LEN` makes the counts fit before its loops run, and the loops keep that. -/
theorem completes_execEnc (s : State) : Completes (execEnc s) := by
  refine completes_whenRunning fun _ => ?_
  refine completes_andThen (completes_execQnt s) fun s _ _ => ?_
  refine completes_andThen (completes_execMrt s) fun s _ _ => ?_
  refine completes_andThen (completes_execLen s) fun t hlen he => ?_
  have hfit := countsFit_of_execLen hlen he
  refine completes_andThen (completes_execEin t) fun u hein _ => ?_
  have hfit := preserves_countsFit_execEin t u hfit hein
  refine completes_andThen
    (completes_repeatWhile preserves_countsFit_execEmit (fun v _ => completes_execEmit v) 16 _ hfit)
    fun v hemit _ => ?_
  have hfit := preserves_repeatWhile preserves_countsFit_execEmit 16 digitsOwed u v hfit hemit
  exact completes_repeatWhile preserves_countsFit_execPadc (fun _ => completes_execPadc) 16 _ hfit

/-- `DEC` completes in every state, because each of its four commands does. -/
theorem completes_execDec (s : State) : Completes (execDec s) := by
  refine completes_whenRunning fun _ => ?_
  refine completes_andThen (completes_execDin s) fun s _ _ => ?_
  refine completes_andThen
    (completes_repeatWhile (P := fun _ => True) (fun _ _ _ _ => trivial) (fun s _ => completes_execAcc s) 17 _ trivial)
    fun s _ _ => ?_
  exact completes_andThen (completes_execDqn s) fun s _ _ => completes_execZadj s

/-! ### Every command, host action and step -/

theorem completes_exec_of_ne_padc {i : Instr} (hi : i ≠ .padc) (s : State) : Completes (exec i s) := by
  cases i with
  | qnt => exact completes_execQnt s
  | dqn => exact completes_execDqn s
  | mrt => exact completes_execMrt s
  | enc => exact completes_execEnc s
  | len => exact completes_execLen s
  | ein => exact completes_execEin s
  | emit => exact completes_execEmit s
  | padc => exact absurd rfl hi
  | dec => exact completes_execDec s
  | din => exact completes_execDin s
  | acc => exact completes_execAcc s
  | zadj => exact completes_execZadj s

theorem not_completes_exec_iff (s : State) (i : Instr) :
    ¬ Completes (exec i s) ↔ i = .padc ∧ s.err = 0 ∧ s.i = 15 ∧ 15 < s.nd.toNat + s.np.toNat := by
  by_cases hi : i = .padc
  · subst hi
    rw [eq_self, true_and]
    exact not_completes_execPadc_iff s
  · simp [hi, completes_exec_of_ne_padc hi s]

theorem completes_exec {s : State} (hs : CountsFit s) (i : Instr) : Completes (exec i s) := by
  by_cases hi : i = .padc
  · subst hi; exact completes_execPadc hs
  · exact completes_exec_of_ne_padc hi s

theorem completes_runAction {s : State} (hs : CountsFit s) (a : HostAction) : Completes (runAction a s) := by
  cases a with
  | command w =>
    cases hw : decode w with
    | ok i =>
      obtain ⟨t, ht⟩ := completes_exec hs i
      exact ⟨t, (runWord_of_ok hw s).trans ht⟩
    | error e => exact ⟨_, runWord_of_error hw s⟩
  | writeCbuf k c => exact ⟨_, runAction_writeCbuf k c s⟩
  | _ => exact completes_next _

theorem completes_step {s : State} (hs : CountsFit s) : Completes (step s) := by
  rw [step]
  split
  case h_1 => exact completes_next s
  case h_2 a rest _ => exact completes_runAction (s := s.withHost rest) hs a

/-- Settles O58: in the invariant the counts fit, so no command stops; elsewhere only `PADC` can, where
`not_completes_exec_iff` says. -/
theorem everyStepCompletes : Obligations.EveryStepCompletes := by
  refine ⟨fun s hs => ?_, fun s i => ?_⟩
  · have hfit := State.countsFit_of_inv hs
    exact ⟨completes_step hfit, completes_exec hfit⟩
  · rw [← not_completes_exec_iff, Completes, not_exists]

end Sys2Proof.Machine
end

section
/-! The command decoder and the encoder: `encode` gives the one word of each command, and a word is accepted exactly
when it is such a word, or, said by its fields, when its unit has that function (30_encoding.md R70 to R73). -/

namespace Sys2Proof.Machine

/-! ### The decoder inverts the encoder -/

/-- The word of a command selects its row of the table (R71). -/
theorem decode_encode (i : Instr) : decode (encode i) = .ok i := by cases i <;> rfl

/-- The rows of the table match the whole word, each against the word of its command (R71). -/
theorem row_of_commandTable {r : CommandRow} (hr : r ∈ commandTable) :
    r.mask = BitVec.allOnes 8 ∧ r.pattern = encode r.instr :=
  (by decide : ∀ r ∈ commandTable, r.mask = BitVec.allOnes 8 ∧ r.pattern = encode r.instr) r hr

/-- An accepted word is the word of the command it is decoded to: it is matched in all its bits. -/
theorem eq_encode_of_decode {w : Byte} {i : Instr} (h : decode w = .ok i) : w = encode i := by
  rw [decode] at h
  split at h
  case h_1 r hfind =>
    obtain ⟨hmask, hpattern⟩ := row_of_commandTable (List.mem_of_find?_eq_some hfind)
    have hmatch : w &&& r.mask = r.pattern := by simpa using List.find?_some hfind
    rw [hmask, BitVec.and_allOnes, hpattern] at hmatch
    rw [hmatch, Except.ok.inj h]
  case h_2 => cases h

theorem decode_eq_ok_iff (w : Byte) (i : Instr) : decode w = .ok i ↔ w = encode i :=
  ⟨eq_encode_of_decode, fun h => h ▸ decode_encode i⟩

/-- Settles O1: `decode` inverts `encode`, and accepts no other word. -/
theorem commandWordsAsTabled : Obligations.CommandWordsAsTabled :=
  ⟨decode_encode .qnt, decode_encode .dqn, decode_encode .mrt, decode_encode .enc, decode_encode .len,
    decode_encode .ein, decode_encode .emit, decode_encode .padc, decode_encode .dec, decode_encode .din,
    decode_encode .acc, decode_encode .zadj, decode_eq_ok_iff⟩

/-! ### The accepted words by their fields -/

/-- A command word is its two fields, the unit in the high half (R70). -/
theorem unit_append_fn_ofWord (w : Byte) : (CommandFields.ofWord w).unit ++ (CommandFields.ofWord w).fn = w :=
  BitVec.extractLsb'_append_extractLsb'

/-- The word of every command is well formed. -/
theorem wellFormed_encode (i : Instr) : (CommandFields.ofWord (encode i)).wellFormed = true := by
  cases i with
  | qnt => exact Laws.WordShape.qnt
  | dqn => exact Laws.WordShape.dqn
  | mrt => exact Laws.WordShape.mrt
  | enc => exact Laws.WordShape.enc
  | len => exact Laws.WordShape.len
  | ein => exact Laws.WordShape.ein
  | emit => exact Laws.WordShape.emit
  | padc => exact Laws.WordShape.padc
  | dec => exact Laws.WordShape.dec
  | din => exact Laws.WordShape.din
  | acc => exact Laws.WordShape.acc
  | zadj => exact Laws.WordShape.zadj

/-- Well-formed fields are the fields of a command's word: each unit's functions are its commands, in the order of
R71. -/
theorem exists_encode_of_wellFormed {f : CommandFields} (h : f.wellFormed = true) :
    ∃ i, f.unit ++ f.fn = encode i := by
  obtain ⟨unit, fn⟩ := f
  dsimp only
  rw [CommandFields.wellFormed] at h
  split at h
  case h_1 hunit =>
    obtain rfl : unit = 1 := BitVec.eq_of_toNat_eq hunit
    obtain rfl | rfl : fn = 0 ∨ fn = 1 := by have := of_decide_eq_true h; bv_omega
    exacts [⟨.qnt, rfl⟩, ⟨.dqn, rfl⟩]
  case h_2 hunit =>
    obtain rfl : unit = 2 := BitVec.eq_of_toNat_eq hunit
    obtain rfl : fn = 0 := by have := of_decide_eq_true h; bv_omega
    exact ⟨.mrt, rfl⟩
  case h_3 hunit =>
    obtain rfl : unit = 4 := BitVec.eq_of_toNat_eq hunit
    obtain rfl | rfl | rfl | rfl | rfl : fn = 0 ∨ fn = 1 ∨ fn = 2 ∨ fn = 3 ∨ fn = 4 := by
      have := of_decide_eq_true h; bv_omega
    exacts [⟨.enc, rfl⟩, ⟨.len, rfl⟩, ⟨.ein, rfl⟩, ⟨.emit, rfl⟩, ⟨.padc, rfl⟩]
  case h_4 hunit =>
    obtain rfl : unit = 5 := BitVec.eq_of_toNat_eq hunit
    obtain rfl | rfl | rfl | rfl : fn = 0 ∨ fn = 1 ∨ fn = 2 ∨ fn = 3 := by
      have := of_decide_eq_true h; bv_omega
    exacts [⟨.dec, rfl⟩, ⟨.din, rfl⟩, ⟨.acc, rfl⟩, ⟨.zadj, rfl⟩]
  case h_5 => cases h

/-- Settles O2: an accepted word is a command's word, and so are the words with well-formed fields. -/
theorem acceptedWordsByFields : Obligations.AcceptedWordsByFields := by
  intro w
  simp only [decode_eq_ok_iff]
  constructor
  · rintro ⟨i, rfl⟩
    exact wellFormed_encode i
  · intro h
    rw [← unit_append_fn_ofWord w]
    exact exists_encode_of_wellFormed h

/-! ### The other words -/

/-- The commands, in the order of R71. -/
def commands : List Instr := [.qnt, .dqn, .mrt, .enc, .len, .ein, .emit, .padc, .dec, .din, .acc, .zadj]

theorem mem_commands (i : Instr) : i ∈ commands := by cases i <;> decide

/-- The words of the commands, in numbers. -/
theorem map_encode_commands :
    commands.map encode = [0x10, 0x11, 0x20, 0x40, 0x41, 0x42, 0x43, 0x44, 0x50, 0x51, 0x52, 0x53] := rfl

/-- The accepted words are the words of the commands. -/
theorem mem_map_encode_commands_iff (w : Byte) : w ∈ commands.map encode ↔ ∃ i, decode w = .ok i := by
  simp only [List.mem_map, mem_commands, true_and, decode_eq_ok_iff, @eq_comm _ w]

/-- Of the 256 words, 244 are no command's (R73). -/
theorem countP_not_command :
    (List.range 256).countP (fun n => decide (BitVec.ofNat 8 n ∉ commands.map encode)) = 244 := by decide +kernel

/-- A word that names no command raises `E_ILLCMD` on a running core (R221). -/
theorem runWord_of_rejected {w : Byte} {s : State} (hw : ¬ ∃ i, decode w = .ok i) (he : s.err = 0) :
    runWord w s = .next (s.withErr (FaultCode.code .illCmd)) := by
  cases hdec : decode w with
  | ok i => exact absurd ⟨i, hdec⟩ hw
  | error e => rw [runWord_of_error hdec, raise_running he]

/-- Settles O3: the 12 words are the accepted ones, and every other takes the arm that raises `E_ILLCMD`. -/
theorem illegalWordRaisesIllCmd : Obligations.IllegalWordRaisesIllCmd := by
  unfold Obligations.IllegalWordRaisesIllCmd
  rw [← map_encode_commands]
  refine ⟨fun w s hw he => ?_, fun w hw => (mem_map_encode_commands_iff w).1 hw, countP_not_command⟩
  exact runWord_of_rejected (fun h => hw ((mem_map_encode_commands_iff w).2 h)) he

end Sys2Proof.Machine
end

section
/-! The interleaver, the digits cut from its codes, and the alphabet, bit by bit (30_encoding.md R76 to R81). -/

namespace Sys2Proof.Machine

/-! ### `interleave` as a number -/

/-- The low `2n` bits of a number, summed pair by pair. -/
theorem mod_two_pow_two_mul_eq_sum (m n : Nat) :
    m % 2 ^ (2 * n) = ∑ k ∈ Finset.range n,
      ((m.testBit (2 * k + 1)).toNat * 2 ^ (2 * k + 1) + (m.testBit (2 * k)).toNat * 2 ^ (2 * k)) := by
  induction n with
  | zero => simp [Nat.mod_one]
  | succ n ih =>
    have hsplit : ∀ j, m % 2 ^ (j + 1) = m % 2 ^ j + (m.testBit j).toNat * 2 ^ j := fun j => by
      rw [Nat.mod_pow_succ, Nat.toNat_testBit, Nat.mul_comm]
    rw [Finset.sum_range_succ, ← ih, Nat.mul_succ, hsplit, hsplit]
    omega

theorem interleave_getLsbD_odd (a b : BitVec 16) {k : Nat} (hk : k < 16) :
    (interleave a b).getLsbD (2 * k + 1) = a.getLsbD k := by
  have hhalf : (2 * k + 1) / 2 = k := by omega
  have hodd : (2 * k + 1) % 2 = 1 := by omega
  have hlt : 2 * k + 1 < 32 := by omega
  rw [interleave_getLsbD, decide_eq_true hlt, Bool.true_and, if_pos hodd, hhalf]

theorem interleave_getLsbD_even (a b : BitVec 16) {k : Nat} (hk : k < 16) :
    (interleave a b).getLsbD (2 * k) = b.getLsbD k := by
  have hhalf : 2 * k / 2 = k := by omega
  have heven : ¬ 2 * k % 2 = 1 := by omega
  have hlt : 2 * k < 32 := by omega
  rw [interleave_getLsbD, decide_eq_true hlt, Bool.true_and, if_neg heven, hhalf]

/-- Settles O22: the bits by `interleave_getLsbD`, and the number as the sum of its bits. -/
theorem mortonLayout : Obligations.MortonLayout := by
  intro a b
  refine ⟨rfl, fun k hk => ⟨interleave_getLsbD_odd a b hk, interleave_getLsbD_even a b hk⟩, ?_⟩
  have hbits : (interleave a b).toNat % 2 ^ (2 * 16) = (interleave a b).toNat := Nat.mod_eq_of_lt (interleave a b).isLt
  rw [← hbits, mod_two_pow_two_mul_eq_sum]
  refine Finset.sum_congr rfl fun k hk => ?_
  have hk : k < 16 := Finset.mem_range.1 hk
  rw [BitVec.testBit_toNat, BitVec.testBit_toNat, interleave_getLsbD_odd a b hk, interleave_getLsbD_even a b hk]

/-! ### `deinterleave6` -/

/-- Interleaving the two groups of a digit gives the digit back. -/
theorem interleave_deinterleave6 (d : Digit) :
    interleave ((deinterleave6 d).1.setWidth 16) ((deinterleave6 d).2.setWidth 16) = d.setWidth 32 := by
  refine BitVec.eq_of_getLsbD_eq fun j hj => ?_
  rw [interleave_getLsbD, BitVec.getLsbD_setWidth, BitVec.getLsbD_setWidth, BitVec.getLsbD_setWidth,
    deinterleave6_fst_getLsbD, deinterleave6_snd_getLsbD]
  by_cases hsix : j < 6
  · have hj3 : j / 2 < 3 := by omega
    have hj16 : j / 2 < 16 := by omega
    obtain hpar | hpar := Nat.mod_two_eq_zero_or_one j
    · have hdouble : 2 * (j / 2) = j := by omega
      simp [hpar, hj, hj3, hj16, hdouble]
    · have hdouble : 2 * (j / 2) + 1 = j := by omega
      simp [hpar, hj, hj3, hj16, hdouble]
  · have hj3 : ¬ j / 2 < 3 := by omega
    simp [hj3, BitVec.getLsbD_of_ge d j (by omega)]

/-- The groups of two interleaved 3-bit operands are the operands. -/
theorem deinterleave6_interleave (p q : Group) :
    deinterleave6 ((interleave (p.setWidth 16) (q.setWidth 16)).setWidth 6) = (p, q) := by
  refine Prod.ext (BitVec.eq_of_getLsbD_eq fun k hk => ?_) (BitVec.eq_of_getLsbD_eq fun k hk => ?_)
  · have h6 : 2 * k + 1 < 6 := by omega
    have h16 : k < 16 := by omega
    rw [deinterleave6_fst_getLsbD, BitVec.getLsbD_setWidth, interleave_getLsbD_odd _ _ h16, BitVec.getLsbD_setWidth]
    simp [hk, h6, h16]
  · have h6 : 2 * k < 6 := by omega
    have h16 : k < 16 := by omega
    rw [deinterleave6_snd_getLsbD, BitVec.getLsbD_setWidth, interleave_getLsbD_even _ _ h16, BitVec.getLsbD_setWidth]
    simp [hk, h6, h16]

/-- Settles O24: the two bit lemmas of `deinterleave6`, and the two inverse laws from them. -/
theorem deinterleaveInvertsInterleave : Obligations.DeinterleaveInvertsInterleave := by
  refine ⟨fun d k hk => ⟨?_, ?_⟩, interleave_deinterleave6, deinterleave6_interleave⟩
  · rw [deinterleave6_fst_getLsbD, decide_eq_true hk, Bool.true_and]
  · rw [deinterleave6_snd_getLsbD, decide_eq_true hk, Bool.true_and]

/-! ### `slice` -/

/-- A field of a tier is its six bits from `24 - 6j` up (R80). -/
theorem tierField_eq_extractLsb' (c : Tier) (j : Nat) : tierField c j = c.extractLsb' (24 - 6 * j) 6 := by
  have hmask : (0x3f : Tier) = (BitVec.allOnes 6).setWidth 32 := rfl
  rw [tierField, BitVec.setWidth_and, hmask, BitVec.setWidth_setWidth_of_le _ (by decide), BitVec.setWidth_eq,
    BitVec.and_allOnes, BitVec.setWidth_ushiftRight_eq_extractLsb]

theorem tierField_toNat (c : Tier) (j : Nat) : (tierField c j).toNat = c.toNat / 2 ^ (24 - 6 * j) % 64 := by
  rw [tierField_eq_extractLsb', BitVec.extractLsb'_toNat, Nat.shiftRight_eq_div_pow]

theorem tierField_getLsbD (c : Tier) (j : Nat) {b : Nat} (hb : b < 6) :
    (tierField c j).getLsbD b = c.getLsbD (24 - 6 * j + b) := by
  rw [tierField_eq_extractLsb', BitVec.getLsbD_extractLsb', decide_eq_true hb, Bool.true_and]

/-- The first five digits are the fields of the first tier (R164). -/
theorem slice_of_lt_five (c1 c2 : Tier) {i : Nat} (hi : i < 5) : slice c1 c2 i = tierField c1 i := if_pos hi

/-- The other five digits are the fields of the second tier (R164). -/
theorem slice_of_five_le (c1 c2 : Tier) {i : Nat} (hi : 5 ≤ i) (hi' : i < 10) :
    slice c1 c2 i = tierField c2 (i - 5) := by
  rw [slice, if_neg (by omega), if_pos hi']

/-- Settles O32: a digit is a field of its tier. -/
theorem sliceFields : Obligations.SliceFields := by
  refine fun c1 c2 i => ⟨fun hi => ?_, fun hi hi' => ?_⟩
  · rw [slice_of_lt_five c1 c2 hi]
    exact ⟨rfl, tierField_toNat c1 i, tierField_eq_extractLsb' c1 i⟩
  · rw [slice_of_five_le c1 c2 hi hi']
    exact ⟨rfl, tierField_toNat c2 (i - 5), tierField_eq_extractLsb' c2 (i - 5)⟩

/-! ### The digits of a point -/

theorem hiOperand_getLsbD (v : Grid) {k : Nat} (hk : k < 15) : (hiOperand v).getLsbD k = v.getLsbD (17 + k) := by
  have : k < 16 := by omega
  simp [hiOperand, hk, this]

theorem loOperand_getLsbD (v : Grid) {k : Nat} (hk : k < 15) : (loOperand v).getLsbD k = v.getLsbD (2 + k) := by
  have : k < 16 := by omega
  simp [loOperand, hk, this]

/-- Field `n` of an interleaved tier holds, three by three, the bits from `12 - 3n` up of its two operands. -/
theorem tierField_interleave (a b : BitVec 16) {n j : Nat} (hn : n < 5) (hj : j < 3) :
    (tierField (interleave a b) n).getLsbD (2 * j + 1) = a.getLsbD (12 - 3 * n + j) ∧
    (tierField (interleave a b) n).getLsbD (2 * j) = b.getLsbD (12 - 3 * n + j) := by
  have hodd : 24 - 6 * n + (2 * j + 1) = 2 * (12 - 3 * n + j) + 1 := by omega
  have heven : 24 - 6 * n + 2 * j = 2 * (12 - 3 * n + j) := by omega
  have hlt : 12 - 3 * n + j < 16 := by omega
  rw [tierField_getLsbD _ _ (by omega), tierField_getLsbD _ _ (by omega), hodd, heven,
    interleave_getLsbD_odd _ _ hlt, interleave_getLsbD_even _ _ hlt]
  exact ⟨rfl, rfl⟩

/-- The tiers that `MRT` leaves on a running core. -/
theorem tiers_of_execMrt {s t : State} (he : s.err = 0) (h : execMrt s = .next t) :
    t.c1 = interleave (hiOperand s.x) (hiOperand s.y) ∧ t.c2 = interleave (loOperand s.x) (loOperand s.y) := by
  obtain ⟨hne, -⟩ | ⟨-, rfl⟩ := execMrt_next h
  · exact absurd he hne
  · exact ⟨rfl, rfl⟩

/-- Settles O27: the first five digits are fields of the tier of bits 31..17, the others of that of bits 16..2. -/
theorem digitsAsBitsOfThePoint : Obligations.DigitsAsBitsOfThePoint := by
  intro s t he h n hn j hj
  obtain ⟨hc1, hc2⟩ := tiers_of_execMrt he h
  by_cases hfirst : n < 5
  · have hbit : 17 + (12 - 3 * n + j) = 29 - 3 * n + j := by omega
    rw [slice_of_lt_five _ _ hfirst, hc1, ← hbit, ← hiOperand_getLsbD s.x (by omega),
      ← hiOperand_getLsbD s.y (by omega)]
    exact tierField_interleave _ _ hfirst hj
  · have hbit : 2 + (12 - 3 * (n - 5) + j) = 29 - 3 * n + j := by omega
    rw [slice_of_five_le _ _ (by omega) hn, hc2, ← hbit, ← loOperand_getLsbD s.x (by omega),
      ← loOperand_getLsbD s.y (by omega)]
    exact tierField_interleave _ _ (by omega) hj

/-! ### The alphabet -/

/-- The ROM in closed form, entry by entry (R76). -/
theorem encDigit_toNat : ∀ d : Digit,
    (encDigit d).toNat =
      if d.toNat ≤ 25 then 0x41 + d.toNat
      else if d.toNat ≤ 51 then 0x61 + (d.toNat - 26)
      else if d.toNat ≤ 61 then 0x30 + (d.toNat - 52)
      else if d.toNat = 62 then 0x5F else 0x7E := by decide

/-- Different digits have different codes: the reverse lookup tells them apart (R143). -/
theorem decChar_encDigit : ∀ d : Digit, decChar (encDigit d) = some d := by decide

theorem encDigit_injective : Function.Injective encDigit := by
  intro d d' h
  have : some d = some d' := by rw [← decChar_encDigit d, h, decChar_encDigit]
  exact Option.some.inj this

/-- Settles O28: the table by its 64 entries, its codes distinct because they decode. -/
theorem alphabetTable : Obligations.AlphabetTable := ⟨encDigit_toNat, fun _ _ h => encDigit_injective h⟩

end Sys2Proof.Machine
end

section
/-! What the host gets by issuing commands one by one (30_encoding.md R75, 60_exceptions.md R227), when a loop is such a
sequence, and the sequence of `DEC`. -/

namespace Sys2Proof.Machine

/-! ### Issuing commands -/

/-- Every command acts only on a running core. -/
theorem exec_guarded (i : Instr) : ∃ act, ∀ s, exec i s = whenRunning s act := by
  cases i <;> exact ⟨_, fun _ => rfl⟩

/-- A faulted core ignores every command (R226). -/
theorem exec_faulted {s : State} (he : s.err ≠ 0) (i : Instr) : exec i s = .next s := by
  obtain ⟨act, hact⟩ := exec_guarded i
  rw [hact, whenRunning_faulted he]

@[simp] theorem issue_nil (s : State) : issue [] s = .next s := rfl

@[inherit_doc exec_faulted]
theorem issue_faulted {s : State} (he : s.err ≠ 0) (is : List Instr) : issue is s = .next s := by
  induction is with
  | nil => rfl
  | cons i is ih =>
    have hrun : runAction (.command (encode i)) s = .next s :=
      (runWord_of_ok (decode_encode i) s).trans (exec_faulted he i)
    rw [issue, List.map_cons, runActions_cons, hrun]
    exact ih

/-- To go on with commands issued one by one, or to go on with them unless a fault was raised, is the same: a faulted
core ignores them. -/
theorem bindNext_issue (r : Result) (is : List Instr) : bindNext r (issue is) = andThen r (issue is) := by
  cases r with
  | next s =>
    by_cases he : s.err = 0
    · rw [bindNext_next, andThen_of_running he]
    · rw [bindNext_next, andThen_of_faulted he, issue_faulted he]
  | fault e => rfl
  | refused e => rfl

theorem issue_cons (i : Instr) (is : List Instr) (s : State) :
    issue (i :: is) s = andThen (exec i s) (issue is) := by
  rw [← bindNext_issue, ← runWord_of_ok (decode_encode i)]
  exact runActions_cons _ _ _

/-- Going on after a sequence, step by step. -/
theorem andThen_assoc (r : Result) (f g : State → Result) :
    andThen (andThen r f) g = andThen r fun s => andThen (f s) g := by
  cases r with
  | next s =>
    by_cases he : s.err = 0
    · rw [andThen_of_running he, andThen_of_running he]
    · rw [andThen_of_faulted he, andThen_of_faulted he, andThen_of_faulted he]
  | fault e => rfl
  | refused e => rfl

/-- Sequences that agree on every running state the first step can leave are the same. -/
theorem andThen_congr {r : Result} {f g : State → Result} (h : ∀ t, r = .next t → t.err = 0 → f t = g t) :
    andThen r f = andThen r g := by
  cases r with
  | next t =>
    by_cases he : t.err = 0
    · rw [andThen_of_running he, andThen_of_running he, h t rfl he]
    · rw [andThen_of_faulted he, andThen_of_faulted he]
  | fault e => rfl
  | refused e => rfl

theorem issue_append (is js : List Instr) (s : State) :
    issue (is ++ js) s = andThen (issue is s) (issue js) := by
  induction is generalizing s with
  | nil => rw [List.nil_append, issue_nil, ← bindNext_issue, bindNext_next]
  | cons i is ih => rw [List.cons_append, issue_cons, issue_cons, andThen_assoc, funext ih]

theorem issue_singleton (i : Instr) (s : State) : issue [i] s = exec i s := by
  rw [issue_cons, ← bindNext_issue]
  cases exec i s <;> rfl

/-! ### Loops as issued commands -/

section loops
variable {cmd : Instr} {cond : State → Bool} {turns : State → Nat}

/-- A loop that has a whole number of turns left, one less after each turn, is that many commands. -/
theorem repeatWhile_eq_issue_turns (hcond : ∀ s, cond s = true ↔ 0 < turns s)
    (hturn : ∀ s t, cond s = true → exec cmd s = .next t → t.err = 0 → turns t + 1 = turns s)
    {fuel : Nat} {s : State} (hfuel : turns s ≤ fuel) :
    repeatWhile fuel cond (exec cmd) s = issue (List.replicate (turns s) cmd) s := by
  induction fuel generalizing s with
  | zero => rw [Nat.le_zero.1 hfuel]; rfl
  | succ fuel ih =>
    rw [repeatWhile_succ]
    by_cases hs : cond s = true
    · obtain ⟨n, hn⟩ := Nat.exists_eq_succ_of_ne_zero ((hcond s).1 hs).ne'
      rw [if_pos hs, hn, Nat.succ_eq_add_one, List.replicate_succ, issue_cons]
      refine andThen_congr fun t ht he => ?_
      have hleft := hturn s t hs ht he
      obtain rfl : turns t = n := by omega
      exact ih (by omega)
    · have hzero : turns s = 0 := by have := mt (hcond s).2 hs; omega
      rw [if_neg hs, hzero, List.replicate_zero, issue_nil]

/-- A loop whose command does nothing once the loop is over is as many commands as it has fuel. -/
theorem repeatWhile_eq_issue_fuel (hidle : ∀ s, cond s = false → exec cmd s = .next s) (fuel : Nat) (s : State) :
    repeatWhile fuel cond (exec cmd) s = issue (List.replicate fuel cmd) s := by
  induction fuel generalizing s with
  | zero => rfl
  | succ fuel ih =>
    rw [repeatWhile_succ, List.replicate_succ, issue_cons, ← funext ih]
    cases hs : cond s with
    | true => rw [if_pos rfl]
    | false =>
      rw [hidle s hs, if_neg (by decide)]
      by_cases he : s.err = 0
      · rw [andThen_of_running he, repeatWhile_done hs]
      · rw [andThen_of_faulted he]

/-- Fuel beyond the turns a loop can take is not used. -/
theorem repeatWhile_of_turns_le {body : State → Result} (hcond : ∀ s, cond s = true → 0 < turns s)
    (hturn : ∀ s t, cond s = true → body s = .next t → t.err = 0 → turns t < turns s)
    {fuel fuel' : Nat} {s : State} (hfuel : turns s ≤ fuel) (hle : fuel ≤ fuel') :
    repeatWhile fuel' cond body s = repeatWhile fuel cond body s := by
  induction fuel generalizing fuel' s with
  | zero =>
    have hdone : cond s = false := Bool.eq_false_iff.2 fun hs => by have := hcond s hs; omega
    rw [repeatWhile_done hdone, repeatWhile_done hdone]
  | succ fuel ih =>
    obtain ⟨m, rfl⟩ : ∃ m, fuel' = m + 1 := ⟨fuel' - 1, by omega⟩
    rw [repeatWhile_succ, repeatWhile_succ]
    split
    case isTrue hs =>
      refine andThen_congr fun t ht he => ih ?_ (by omega)
      have := hturn s t hs ht he
      omega
    case isFalse => rfl

end loops

/-! ### `DEC` -/

/-- The turns the decode loop can still take: one for each character ahead and one to stop (R193). -/
def accTurns (s : State) : Nat := if s.stop then 0 else s.clen.toNat - s.i.toNat + 1

@[simp] theorem foldDigit_stop (d : Digit) (s : State) : (foldDigit d s).stop = s.stop := rfl
@[simp] theorem foldDigit_clen (d : Digit) (s : State) : (foldDigit d s).clen = s.clen := rfl
@[simp] theorem foldDigit_i (d : Digit) (s : State) : (foldDigit d s).i = s.i + 1 := rfl

/-- A stopped decoder ignores `ACC` (R192). -/
theorem exec_acc_stopped {s : State} (h : notStopped s = false) : exec .acc s = .next s := by
  have hstop : s.stop = true := by simpa [notStopped] using h
  by_cases he : s.err = 0
  · have hself : s.withStop true = s := by rw [← hstop]; rfl
    show execAcc s = .next s
    rw [execAcc, whenRunning_running he, hstop, Bool.true_or, if_pos rfl, hself]
  · exact exec_faulted he .acc

theorem accTurns_pos {s : State} (h : notStopped s = true) : 0 < accTurns s := by
  have hstop : s.stop = false := by simpa [notStopped] using h
  simp [accTurns, hstop]

/-- Each turn of the decode loop stops or passes one character. -/
theorem accTurns_lt {s t : State} (hs : notStopped s = true) (h : exec .acc s = .next t) (he : t.err = 0) :
    accTurns t < accTurns s := by
  have hstop : s.stop = false := by simpa [notStopped] using hs
  obtain ⟨hne, rfl⟩ | ⟨-, -, rfl⟩ | ⟨-, -, hchar, d, -, rfl⟩ := execAcc_next h
  · exact absurd he hne
  · simp [accTurns, hstop]
  · have hlt : s.i.toNat < s.clen.toNat := by simpa [hasCharAt] using hchar
    have hi : (s.i + 1).toNat = s.i.toNat + 1 := by have := s.clen.isLt; bv_omega
    rw [accTurns, accTurns, foldDigit_stop, foldDigit_clen, foldDigit_i, hstop, hi]
    simp only [Bool.false_eq_true, if_false]
    omega

/-- The decode loop of a running core has at most 16 turns, and no more `ACC` than that are needed (R193). -/
theorem decodeLoop_eq_issue (s : State) :
    repeatWhile 17 notStopped execAcc s = issue (List.replicate 16 .acc) s := by
  have hturns : accTurns s ≤ 16 := by
    have := s.clen.isLt
    rw [accTurns]; split <;> omega
  calc repeatWhile 17 notStopped (exec .acc) s
      = repeatWhile 16 notStopped (exec .acc) s :=
        repeatWhile_of_turns_le (fun _ => accTurns_pos) (fun _ _ => accTurns_lt) hturns (by decide)
    _ = issue (List.replicate 16 .acc) s := repeatWhile_eq_issue_fuel (fun _ => exec_acc_stopped) 16 s

/-- Settles O48: `DEC` is its four commands in sequence, its loop sixteen `ACC`. -/
theorem decodeEqualsIssuedSequence : Obligations.DecodeEqualsIssuedSequence := by
  intro s
  by_cases he : s.err = 0
  · calc issue (.din :: (List.replicate 16 .acc ++ [.dqn, .zadj])) s
        = andThen (execDin s) fun s => andThen (issue (List.replicate 16 .acc) s) fun s =>
            andThen (execDqn s) execZadj := by
          rw [issue_cons, funext (issue_append _ _), funext (issue_cons .dqn _), funext (issue_singleton .zadj)]
          rfl
      _ = exec .dec s := by
          show _ = execDec s
          rw [execDec, whenRunning_running he, funext decodeLoop_eq_issue]
  · rw [issue_faulted he, exec_faulted he]

end Sys2Proof.Machine
end

section
/-! `ENC`: its commands one by one, and on the legal domain the state they leave (44_encoder.md R170). -/

namespace Sys2Proof.Machine

/-! ### Appending characters -/

/-- `t` is `s` with `n` characters appended from index `I` on, that of cell `k` being `c k`. Where a write puts its
byte is known of a buffer in canonical form only (log entry 4). -/
structure Appended (c : Nat → Byte) (n : Nat) (s t : State) : Prop where
  frame : t = { s with i := t.i, clen := t.clen, cbuf := t.cbuf }
  index : t.i.toNat = s.i.toNat + n
  length : s.clen = s.i → t.clen = t.i
  wf : s.cbuf.wf = true → t.cbuf.wf = true
  cells : s.cbuf.wf = true → ∀ k, t.cbuf.cellAt k =
    if s.i.toNat ≤ k ∧ k < s.i.toNat + n then c k else s.cbuf.cellAt k

section Appended
variable {c : Nat → Byte} {n : Nat} {s t u : State}

theorem Appended.err (h : Appended c n s t) : t.err = s.err := (congrArg State.err h.frame :)
theorem Appended.nd (h : Appended c n s t) : t.nd = s.nd := (congrArg State.nd h.frame :)
theorem Appended.np (h : Appended c n s t) : t.np = s.np := (congrArg State.np h.frame :)
theorem Appended.c1 (h : Appended c n s t) : t.c1 = s.c1 := (congrArg State.c1 h.frame :)
theorem Appended.c2 (h : Appended c n s t) : t.c2 = s.c2 := (congrArg State.c2 h.frame :)

/-- Writes to the buffer and its two indices, done after such writes, are such writes. -/
theorem frame_trans (ht : t = { s with i := t.i, clen := t.clen, cbuf := t.cbuf })
    (hu : u = { t with i := u.i, clen := u.clen, cbuf := u.cbuf }) :
    u = { s with i := u.i, clen := u.clen, cbuf := u.cbuf } :=
  hu.trans (by rw [ht])

theorem appended_zero (c : Nat → Byte) (s : State) : Appended c 0 s s where
  frame := rfl
  index := rfl
  length := id
  wf := id
  cells _ k := (if_neg (by omega)).symm

/-- What is left by appending one character at an index the buffer has. -/
theorem appended_one (hi : s.i.toNat < Config.cap) :
    Appended c 1 s (((s.withCell s.i.toNat (c s.i.toNat)).withIndex (s.i + 1)).withLength (s.i + 1)) where
  frame := rfl
  index := by
    have hi : s.i.toNat < 15 := hi
    simp only [State.withLength_i, State.withIndex_i]; bv_omega
  length _ := rfl
  wf hwf := Memory.wf_put hwf hi _
  cells hwf k := by
    rw [State.withLength_cbuf, State.withIndex_cbuf, State.withCell_cbuf, Memory.cellAt_put hwf]
    by_cases hk : k = s.i.toNat
    · rw [if_pos hk, if_pos (by omega), hk]
    · rw [if_neg hk, if_neg (by omega)]

theorem Appended.succ (ht : Appended c n s t) (hu : Appended c 1 t u) : Appended c (n + 1) s u where
  frame := frame_trans ht.frame hu.frame
  index := by rw [hu.index, ht.index]; rfl
  length h := hu.length (ht.length h)
  wf hwf := hu.wf (ht.wf hwf)
  cells hwf k := by
    rw [hu.cells (ht.wf hwf), ht.cells hwf, ht.index]
    by_cases hlast : k = s.i.toNat + n
    · rw [if_pos (by omega), if_pos (by omega)]
    · rw [if_neg (by omega)]
      exact if_congr (by omega) rfl rfl

/-- A command that appends one character, wherever fewer than `n` have been appended, appends `n` when issued `n`
times. -/
theorem issue_replicate_appended {cmd : Instr} (he : s.err = 0)
    (hcmd : ∀ m t, m < n → Appended c m s t → ∃ u, exec cmd t = .next u ∧ Appended c 1 t u) :
    ∃ t, issue (List.replicate n cmd) s = .next t ∧ Appended c n s t := by
  induction n with
  | zero => exact ⟨s, rfl, appended_zero c s⟩
  | succ n ih =>
    obtain ⟨t, hrun, ht⟩ := ih fun m t hm => hcmd m t (by omega)
    obtain ⟨u, hlast, hu⟩ := hcmd n t (by omega) ht
    refine ⟨u, ?_, ht.succ hu⟩
    rw [List.replicate_succ', issue_append, hrun, andThen_of_running (ht.err.trans he), issue_singleton, hlast]

end Appended

/-! ### `EMIT` and `PADC`, repeated -/

/-- The character of digit `k` of two tiers (R166). -/
def digitChar (c1 c2 : Tier) (k : Nat) : Byte := encDigit (slice c1 c2 k)

section loops
variable {s : State} {n : Nat}

theorem exec_emit_appended (he : s.err = 0) (hi : s.i.toNat < s.nd.toNat) :
    ∃ t, exec .emit s = .next t ∧ Appended (digitChar s.c1 s.c2) 1 s t := by
  have howed : digitsOwed s = true := decide_eq_true hi
  have hcap := digitsOwed_lt_cap howed
  refine ⟨_, ?_, appended_one hcap⟩
  show execEmit s = _
  rw [execEmit, whenRunning_running he, if_pos howed, appendChar_of_lt hcap]
  rfl

theorem exec_padc_appended (he : s.err = 0) (hnd : s.nd.toNat ≤ s.i.toNat)
    (hi : s.i.toNat < s.nd.toNat + s.np.toNat) (hcap : s.i.toNat < Config.cap) :
    ∃ t, exec .padc s = .next t ∧ Appended (fun _ => Config.padChar) 1 s t := by
  have howed : (!digitsOwed s && charsOwed s) = true := by simpa [digitsOwed, charsOwed] using ⟨hnd, hi⟩
  refine ⟨_, ?_, appended_one (c := fun _ => Config.padChar) hcap⟩
  show execPadc s = _
  rw [execPadc, whenRunning_running he, if_pos howed, appendChar_of_lt hcap]

/-- As many `EMIT` as digits are owed append those digits. -/
theorem issue_emits (he : s.err = 0) (hn : s.i.toNat + n ≤ s.nd.toNat) :
    ∃ t, issue (List.replicate n .emit) s = .next t ∧ Appended (digitChar s.c1 s.c2) n s t := by
  refine issue_replicate_appended he fun m t hm ht => ?_
  rw [← ht.c1, ← ht.c2]
  exact exec_emit_appended (ht.err.trans he) (by rw [ht.index, ht.nd]; omega)

/-- As many `PADC` as pads are owed append those pads, where the buffer has the cells. -/
theorem issue_padcs (he : s.err = 0) (hnd : s.nd.toNat ≤ s.i.toNat)
    (hn : s.i.toNat + n ≤ s.nd.toNat + s.np.toNat) (hfit : CountsFit s) :
    ∃ t, issue (List.replicate n .padc) s = .next t ∧ Appended (fun _ => Config.padChar) n s t := by
  have hfit : s.nd.toNat + s.np.toNat ≤ 15 := hfit
  refine issue_replicate_appended he fun m t hm ht => ?_
  refine exec_padc_appended (ht.err.trans he) ?_ ?_ ?_
  · rw [ht.index, ht.nd]; omega
  · rw [ht.index, ht.nd, ht.np]; omega
  · rw [ht.index]; show _ < 15; omega

end loops

/-! ### The loops of `ENC` -/

/-- The turns that the digit loop has left: one for each digit owed (R170). -/
def emitTurns (s : State) : Nat := s.nd.toNat - s.i.toNat

/-- The turns that the pad loop has left: one for each character owed (R170). -/
def padcTurns (s : State) : Nat := s.nd.toNat + s.np.toNat - s.i.toNat

theorem digitsOwed_iff (s : State) : digitsOwed s = true ↔ 0 < emitTurns s := by
  simp [digitsOwed, emitTurns]

theorem charsOwed_iff (s : State) : charsOwed s = true ↔ 0 < padcTurns s := by
  simp [charsOwed, padcTurns]

theorem emitTurns_step {s t : State} (hs : digitsOwed s = true) (h : exec .emit s = .next t) (he : t.err = 0) :
    emitTurns t + 1 = emitTurns s := by
  obtain ⟨hne, rfl⟩ | ⟨-, -, hcap, rfl⟩ | ⟨-, -, rfl⟩ := execEmit_next h
  · exact absurd he hne
  · have hindex := (appended_one (c := fun _ => encDigit (nextDigit s)) hcap).index
    have hlt := (digitsOwed_iff s).1 hs
    rw [emitTurns, hindex]
    simp only [emitTurns, State.withLength_nd, State.withIndex_nd, State.withCell_nd] at hlt ⊢
    omega
  · exact absurd he (FaultCode.code_ne_zero .seq)

theorem padcTurns_step {s t : State} (hs : charsOwed s = true) (h : exec .padc s = .next t) (he : t.err = 0) :
    padcTurns t + 1 = padcTurns s := by
  obtain ⟨hne, rfl⟩ | ⟨-, -, hcap, rfl⟩ | ⟨-, -, rfl⟩ := execPadc_next h
  · exact absurd he hne
  · have hindex := (appended_one (c := fun _ => Config.padChar) hcap).index
    have hlt := (charsOwed_iff s).1 hs
    rw [padcTurns, hindex]
    simp only [padcTurns, State.withLength_nd, State.withIndex_nd, State.withCell_nd, State.withLength_np,
      State.withIndex_np, State.withCell_np] at hlt ⊢
    omega
  · exact absurd he (FaultCode.code_ne_zero .seq)

/-- The loops of `ENC`, written out. -/
def encLoops (nd np : Nat) : List Instr := List.replicate nd .emit ++ List.replicate np .padc

/-- The loops of `ENC`, started at index 0, are their commands. -/
theorem encodeLoops_eq_issue {s : State} (he : s.err = 0) (hi : s.i = 0) (hfit : CountsFit s) :
    andThen (repeatWhile 16 digitsOwed execEmit s) (repeatWhile 16 charsOwed execPadc) =
      issue (encLoops s.nd.toNat s.np.toNat) s := by
  have hzero : s.i.toNat = 0 := by rw [hi]; rfl
  have hfit' : s.nd.toNat + s.np.toNat ≤ 15 := hfit
  have hemitTurns : emitTurns s = s.nd.toNat := by rw [emitTurns]; omega
  have hdigits := repeatWhile_eq_issue_turns digitsOwed_iff (fun _ _ => emitTurns_step)
    (show emitTurns s ≤ 16 by omega)
  obtain ⟨t, hemits, ht⟩ := issue_emits (n := s.nd.toNat) he (by omega)
  have hpadcTurns : padcTurns t = s.np.toNat := by rw [padcTurns, ht.index, ht.nd, ht.np]; omega
  have hpads := repeatWhile_eq_issue_turns charsOwed_iff (fun _ _ => padcTurns_step)
    (show padcTurns t ≤ 16 by omega)
  rw [hemitTurns] at hdigits
  rw [hpadcTurns] at hpads
  calc andThen (repeatWhile 16 digitsOwed (exec .emit) s) (repeatWhile 16 charsOwed (exec .padc))
      = repeatWhile 16 charsOwed (exec .padc) t := by
        rw [hdigits, hemits, andThen_of_running (ht.err.trans he)]
    _ = issue (encLoops s.nd.toNat s.np.toNat) s := by
        rw [hpads, encLoops, issue_append, hemits, andThen_of_running (ht.err.trans he)]

/-! ### `ENC` as a sequence -/

/-- The digit count of a legal zoom fits its register (R25). -/
theorem toNat_ofNat_ndigits {z : Int} (hz : zoomLegal z = true) : (BitVec.ofNat 4 (ndigits z)).toNat = ndigits z :=
  Nat.mod_eq_of_lt ((ndigits_le_of_zoomLegal hz).trans_lt (by decide))

/-- The pad count of any zoom fits its register (R25). -/
theorem toNat_ofNat_npads (z : Int) : (BitVec.ofNat 2 (npads z)).toNat = npads z :=
  Nat.mod_eq_of_lt ((npads_le z).trans_lt (by decide))

/-- The counts that `LEN` leaves when it does not fault. -/
theorem counts_of_execLen {s t : State} (h : execLen s = .next t) (he : t.err = 0) :
    t.nd.toNat = ndigits (zoomLevel s) ∧ t.np.toNat = npads (zoomLevel s) := by
  obtain ⟨hne, rfl⟩ | ⟨-, hz, rfl⟩ | ⟨-, -, rfl⟩ := execLen_next h
  · exact absurd he hne
  · exact ⟨toNat_ofNat_ndigits hz, toNat_ofNat_npads _⟩
  · exact absurd he (FaultCode.code_ne_zero .zoom)

theorem index_of_execEin {s t : State} (h : execEin s = .next t) (he : t.err = 0) : t.i = 0 := by
  obtain ⟨hne, rfl⟩ | ⟨-, rfl⟩ := execEin_next h
  · exact absurd he hne
  · rfl

/-- The commands of `ENC`, issued one after another. -/
theorem issue_encSequence (z : Int) (s : State) :
    issue (encSequence z) s =
      andThen (execQnt s) fun s => andThen (execMrt s) fun s => andThen (execLen s) fun s =>
        andThen (execEin s) (issue (encLoops (ndigits z) (npads z))) := by
  show issue (.qnt :: .mrt :: .len :: .ein :: encLoops (ndigits z) (npads z)) s = _
  rw [issue_cons, funext (issue_cons .mrt _), funext (issue_cons .len _), funext (issue_cons .ein _)]
  rfl

/-- Settles O37: command by command, each loop having as many turns left as `LEN` counted for the zoom. -/
theorem encodeEqualsIssuedSequence : Obligations.EncodeEqualsIssuedSequence := by
  intro s
  by_cases he : s.err = 0
  · show _ = execEnc s
    rw [issue_encSequence, execEnc, whenRunning_running he]
    refine andThen_congr fun s1 hqnt _ => andThen_congr fun s2 hmrt _ => andThen_congr fun s3 hlen he3 =>
      andThen_congr fun s4 hein he4 => ?_
    have hzoom : zoomLevel s2 = s.zoom.toInt := by
      rw [zoomLevel, execMrt_frame hmrt, execQnt_frame hqnt]
    obtain ⟨hnd, hnp⟩ := counts_of_execLen hlen he3
    have hnd4 : s4.nd = s3.nd := (congrArg State.nd (execEin_frame hein) :)
    have hnp4 : s4.np = s3.np := (congrArg State.np (execEin_frame hein) :)
    have hfit : CountsFit s4 := preserves_countsFit_execEin s3 s4 (countsFit_of_execLen hlen he3) hein
    rw [encodeLoops_eq_issue he4 (index_of_execEin hein he4) hfit, hnd4, hnp4, hnd, hnp, hzoom]
  · rw [issue_faulted he, exec_faulted he]

/-! ### `ENC` on the legal domain -/

/-- What the loops' commands leave when they start at index 0: the digits, and the pads after them. -/
theorem issue_encLoops {s : State} (he : s.err = 0) (hi : s.i = 0) (hfit : CountsFit s) :
    ∃ t u, issue (encLoops s.nd.toNat s.np.toNat) s = .next u ∧
      Appended (digitChar s.c1 s.c2) s.nd.toNat s t ∧ Appended (fun _ => Config.padChar) s.np.toNat t u := by
  have hzero : s.i.toNat = 0 := by rw [hi]; rfl
  obtain ⟨t, hemits, ht⟩ := issue_emits (n := s.nd.toNat) he (by omega)
  have het := ht.err.trans he
  have hindex := ht.index
  obtain ⟨u, hpadcs, hu⟩ := issue_padcs (s := t) (n := s.np.toNat) het (by rw [ht.nd]; omega)
    (by rw [ht.nd, ht.np]; omega) (by rw [CountsFit, ht.nd, ht.np]; exact hfit)
  exact ⟨t, u, by rw [encLoops, issue_append, hemits, andThen_of_running het, hpadcs], ht, hu⟩

/-- `QNT` where both coordinates have a grid value (R107). -/
theorem execQnt_of_quantized {s : State} {qx qy : BitVec 32} (he : s.err = 0) (hx : quantLon s = some qx)
    (hy : quantLat s = some qy) : execQnt s = .next (s.withPoint (qx.setWidth 45) (qy.setWidth 45)) := by
  rw [execQnt, whenRunning_running he, hx, hy]

theorem execMrt_running {s : State} (he : s.err = 0) :
    execMrt s = .next (s.withTiers (interleave (hiOperand s.x) (hiOperand s.y))
      (interleave (loOperand s.x) (loOperand s.y))) :=
  whenRunning_running he _

/-- `LEN` at a legal zoom (R162). -/
theorem execLen_of_legal {s : State} (he : s.err = 0) (hz : zoomLegal (zoomLevel s) = true) :
    execLen s =
      .next (s.withCounts (BitVec.ofNat 4 (ndigits (zoomLevel s))) (BitVec.ofNat 2 (npads (zoomLevel s)))) := by
  rw [execLen, whenRunning_running he, if_pos hz]

theorem execEin_running {s : State} (he : s.err = 0) : execEin s = .next ((s.withIndex 0).withLength 0) :=
  whenRunning_running he _

/-- The state in which the loops of `ENC` start, for a point `qx`, `qy` and a legal zoom: its other four commands have
done their work. -/
def encReady (s : State) (qx qy : BitVec 32) : State :=
  ((((s.withPoint (qx.setWidth 45) (qy.setWidth 45)).withTiers
      (interleave (hiOperand (qx.setWidth 45)) (hiOperand (qy.setWidth 45)))
      (interleave (loOperand (qx.setWidth 45)) (loOperand (qy.setWidth 45)))).withCounts
      (BitVec.ofNat 4 (ndigits (zoomLevel s))) (BitVec.ofNat 2 (npads (zoomLevel s)))).withIndex 0).withLength 0

section legal
variable {s : State} {qx qy : BitVec 32}

/-- On the legal domain `ENC` is its loops, from the state that they start in. -/
theorem exec_enc_eq_issue_encLoops (he : s.err = 0) (hx : quantLon s = some qx) (hy : quantLat s = some qy)
    (hz : zoomLegal (zoomLevel s) = true) :
    exec .enc s = issue (encLoops (ndigits (zoomLevel s)) (npads (zoomLevel s))) (encReady s qx qy) := by
  rw [← encodeEqualsIssuedSequence s, issue_encSequence, execQnt_of_quantized he hx hy, andThen_of_running,
    execMrt_running, andThen_of_running, execLen_of_legal, andThen_of_running, execEin_running, andThen_of_running]
  case hz => exact hz
  · rfl
  all_goals exact he

/-- On the legal domain `ENC` appends the digits that the zoom asks for, and then its pads. -/
theorem exec_enc_appended (he : s.err = 0) (hx : quantLon s = some qx) (hy : quantLat s = some qy)
    (hz : zoomLegal (zoomLevel s) = true) :
    ∃ t u, exec .enc s = .next u ∧
      Appended (digitChar (encReady s qx qy).c1 (encReady s qx qy).c2) (ndigits (zoomLevel s)) (encReady s qx qy) t ∧
      Appended (fun _ => Config.padChar) (npads (zoomLevel s)) t u := by
  have hnd : (encReady s qx qy).nd.toNat = ndigits (zoomLevel s) := toNat_ofNat_ndigits hz
  have hnp : (encReady s qx qy).np.toNat = npads (zoomLevel s) := toNat_ofNat_npads _
  have hfit : CountsFit (encReady s qx qy) := by
    have hdigits := ndigits_le_of_zoomLegal hz
    have hpads := npads_le (zoomLevel s)
    rw [CountsFit, hnd, hnp]; omega
  rw [exec_enc_eq_issue_encLoops he hx hy hz, ← hnd, ← hnp]
  exact issue_encLoops he rfl hfit

end legal

/-- The operand of a first tier comes from the low 32 bits of a grid register (R126). -/
theorem hiOperand_setWidth (q : BitVec 32) : hiOperand (q.setWidth 45) = (q.extractLsb' 17 15).setWidth 16 := by
  rw [hiOperand, BitVec.extractLsb'_setWidth_of_le (by decide)]

/-- The operand of a second tier comes from the low 32 bits of a grid register (R126). -/
theorem loOperand_setWidth (q : BitVec 32) : loOperand (q.setWidth 45) = (q.extractLsb' 2 15).setWidth 16 := by
  rw [loOperand, BitVec.extractLsb'_setWidth_of_le (by decide)]

/-- The digit count is `ceil((z + 8) / 3)` from zoom -8 on (R160). -/
theorem ndigits_eq_ceil {z : Int} (hz : -8 ≤ z) : (ndigits z : ℤ) = ⌈((z : ℚ) + 8) / 3⌉ := by
  have hceil := Rat.ceil_intCast_div_natCast (z + 8) 3
  push_cast at hceil
  rw [hceil, ndigits, Config.zoomBias]
  omega

/-- The pad count is `(z + 8) mod 3` (R161). -/
theorem npads_eq_mod (z : Int) : (npads z : ℤ) = (z + 8) % 3 := by
  rw [npads, Config.zoomBias]; omega

/-- Settles O35: `ENC` is its loops on the state that QNT, MRT, LEN and EIN left, and these append the digits and then
the pads. -/
theorem encodeCommand : Obligations.EncodeCommand := by
  refine ⟨rfl, fun s qx qy he hwf hx hy hz hz' => ?_⟩
  have hlegal : zoomLegal (zoomLevel s) = true := by simp [zoomLegal, zoomLevel, hz, hz']
  obtain ⟨t, u, hrun, ht, hu⟩ := exec_enc_appended he hx hy hlegal
  have hframe := frame_trans ht.frame hu.frame
  have hnd : u.nd.toNat = ndigits s.zoom.toInt := by
    rw [hu.nd, ht.nd]; exact toNat_ofNat_ndigits hlegal
  have hnp : u.np.toNat = npads s.zoom.toInt := by
    rw [hu.np, ht.np]; exact toNat_ofNat_npads _
  have hti : t.i.toNat = u.nd.toNat := by
    rw [hnd, ht.index]; exact Nat.zero_add _
  have hlen : u.clen = u.i := hu.length (ht.length rfl)
  have hcount : u.clen.toNat = u.nd.toNat + u.np.toNat := by
    rw [hlen, hu.index, hti, hnp]; rfl
  have hdigits : ∀ k, t.cbuf.cellAt k = if k < u.nd.toNat then digitChar u.c1 u.c2 k else s.cbuf.cellAt k := by
    intro k
    rw [ht.cells hwf, hu.c1, hu.c2, ht.c1, ht.c2, hnd]
    have hzero : (encReady s qx qy).i.toNat = 0 := rfl
    exact if_congr (by rw [hzero, zoomLevel]; omega) rfl rfl
  have hcells : ∀ k, u.cbuf.cellAt k =
      if u.nd.toNat ≤ k ∧ k < u.clen.toNat then Config.padChar else t.cbuf.cellAt k := by
    intro k
    rw [hu.cells (ht.wf hwf), hti, hcount, hnp]; rfl
  refine ⟨u, hrun, ?_, ?_, ?_, hlen.symm, hcount, fun k hk => ?_, fun k hk hk' => ?_, fun k hk => ?_⟩
  · rw [← hiOperand_setWidth, ← hiOperand_setWidth, ← loOperand_setWidth, ← loOperand_setWidth]
    have hnd' : u.nd = (encReady s qx qy).nd := hu.nd.trans ht.nd
    have hnp' : u.np = (encReady s qx qy).np := hu.np.trans ht.np
    rw [hnd', hnp']
    exact hframe
  · rw [hnd, ndigits_eq_ceil hz]
  · rw [hnp, npads_eq_mod]
  · rw [hcells, if_neg (by omega), hdigits, if_pos hk]; rfl
  · rw [hcells, if_pos ⟨hk, hk'⟩]
  · rw [hcells, if_neg (by omega), hdigits, if_neg (by omega)]

end Sys2Proof.Machine
end

section
/-! The finite binary64 values as scaled integers (41_quantizer.md R100): which integers they are, and that `patternOf`
gives the pattern of each. -/

namespace Sys2Proof.Machine

/-- A scaled integer that is a finite binary64 value: 53 bits of significand and an exponent in range (R100). -/
def Binary64 (v : ℤ) : Prop := ∃ a k : ℕ, a < 2 ^ 53 ∧ k ≤ 2045 ∧ v.natAbs = a * 2 ^ k

theorem Binary64.neg {v : ℤ} (h : Binary64 v) : Binary64 (-v) := by
  obtain ⟨a, k, ha, hk, hv⟩ := h
  exact ⟨a, k, ha, hk, by rw [Int.natAbs_neg, hv]⟩

theorem carried_significand (k : ℕ) : 2 ^ 53 * 2 ^ k = 2 ^ 52 * 2 ^ (k + 1) := by
  rw [← pow_add, ← pow_add]
  congr 1
  omega

/-- A significand that carried into the 54th bit is one of the next exponent. -/
theorem binary64_of_significand_le {v : ℤ} {a k : ℕ} (ha : a ≤ 2 ^ 53) (hk : k ≤ 2045) (hcarry : a = 2 ^ 53 → k < 2045)
    (hv : v.natAbs = a * 2 ^ k) : Binary64 v := by
  obtain hlt | rfl := ha.lt_or_eq
  · exact ⟨a, k, hlt, hk, hv⟩
  · exact ⟨2 ^ 52, k + 1, by decide, hcarry rfl, hv.trans (carried_significand k)⟩

/-- A magnitude of 53 bits is subnormal, or has a significand whose top bit is set. -/
theorem subnormal_or_normal {a k : ℕ} (ha : a < 2 ^ 53) :
    a * 2 ^ k < 2 ^ 52 ∨ ∃ a' k', 2 ^ 52 ≤ a' ∧ a' < 2 ^ 53 ∧ k' ≤ k ∧ a * 2 ^ k = a' * 2 ^ k' := by
  induction k generalizing a with
  | zero =>
    by_cases h : a < 2 ^ 52
    · exact .inl (by rwa [pow_zero, mul_one])
    · exact .inr ⟨a, 0, not_lt.1 h, ha, le_rfl, rfl⟩
  | succ k ih =>
    by_cases h : a < 2 ^ 52
    · have hshift : a * 2 ^ (k + 1) = (a * 2) * 2 ^ k := by rw [pow_succ', mul_assoc]
      rw [hshift]
      refine (ih (by omega)).imp_right ?_
      rintro ⟨a', k', hlow, hhigh, hk, heq⟩
      exact ⟨a', k', hlow, hhigh, by omega, heq⟩
    · exact .inr ⟨a, k + 1, not_lt.1 h, ha, le_rfl, rfl⟩

/-- A magnitude of 53 bits below `2^2098` units has an exponent in range. -/
theorem binary64_of_lt {v : ℤ} {a k : ℕ} (ha : a < 2 ^ 53) (hv : v.natAbs = a * 2 ^ k)
    (hlt : v.natAbs < 2 ^ (53 + 2045)) : Binary64 v := by
  obtain hsub | ⟨a', k', hlow, hhigh, -, heq⟩ := subnormal_or_normal (k := k) ha
  · exact ⟨v.natAbs, 0, by omega, by omega, by rw [pow_zero, mul_one]⟩
  · refine ⟨a', k', hhigh, ?_, hv.trans heq⟩
    rw [hv, heq] at hlt
    have hpow : 2 ^ (52 + k') < 2 ^ (53 + 2045) := by
      rw [pow_add 2 52 k']; exact (Nat.mul_le_mul_right _ hlow).trans_lt hlt
    have := (pow_lt_pow_iff_right₀ one_lt_two).1 hpow
    omega

/-! ### The fields of a pattern -/

theorem fracField_lt (b : Pattern) : fracField b < 2 ^ 52 := (b.extractLsb' 0 52).isLt

theorem expField_lt (b : Pattern) : expField b < 2 ^ 11 := (b.extractLsb' 52 11).isLt

/-- The pattern with sign 0 and the fields `e` and `f`. -/
def positivePattern (e f : ℕ) : Pattern := BitVec.ofNat 64 (e * 2 ^ 52 + f)

section positivePattern
variable {e f : ℕ}

theorem positivePattern_toNat (he : e < 2 ^ 11) (hf : f < 2 ^ 52) : (positivePattern e f).toNat = e * 2 ^ 52 + f := by
  rw [positivePattern, BitVec.toNat_ofNat, Nat.mod_eq_of_lt (by omega)]

theorem expField_positivePattern (he : e < 2 ^ 11) (hf : f < 2 ^ 52) : expField (positivePattern e f) = e := by
  rw [expField, BitVec.extractLsb'_toNat, positivePattern_toNat he hf, Nat.shiftRight_eq_div_pow]
  omega

theorem fracField_positivePattern (he : e < 2 ^ 11) (hf : f < 2 ^ 52) : fracField (positivePattern e f) = f := by
  rw [fracField, BitVec.extractLsb'_toNat, positivePattern_toNat he hf, Nat.shiftRight_zero]
  omega

theorem msb_positivePattern (he : e < 2 ^ 11) (hf : f < 2 ^ 52) : (positivePattern e f).msb = false := by
  rw [BitVec.msb_eq_false_iff_two_mul_lt, positivePattern_toNat he hf]
  omega

end positivePattern

/-! ### The pattern of a magnitude -/

/-- The pattern of a subnormal magnitude has exponent field 0. -/
theorem magPattern_subnormal {m : ℕ} (hm : m < 2 ^ 52) : magPattern m = positivePattern 0 m := by
  have hlog : m.log2 < 52 := by
    obtain rfl | h0 := eq_or_ne m 0
    · decide
    · exact (Nat.log2_lt h0).2 hm
  rw [magPattern, if_pos hlog, positivePattern, zero_mul, zero_add]

theorem log2_normal {a k : ℕ} (hlow : 2 ^ 52 ≤ a) (hhigh : a < 2 ^ 53) : (a * 2 ^ k).log2 = 52 + k := by
  have hpos : 0 < 2 ^ k := Nat.two_pow_pos k
  have hne : a * 2 ^ k ≠ 0 := by positivity
  rw [Nat.log2_eq_iff hne]
  constructor
  · rw [pow_add]; exact Nat.mul_le_mul_right _ hlow
  · rw [show 52 + k + 1 = 53 + k by omega, pow_add]; exact Nat.mul_lt_mul_of_pos_right hhigh hpos

/-- The pattern of a normal magnitude has the significand without its top bit in its fraction field. -/
theorem magPattern_normal {a k : ℕ} (hlow : 2 ^ 52 ≤ a) (hhigh : a < 2 ^ 53) :
    magPattern (a * 2 ^ k) = positivePattern (k + 1) (a - 2 ^ 52) := by
  have hlog := log2_normal (k := k) hlow hhigh
  have hexp : 52 + k - 51 = k + 1 := by omega
  have hshift : 52 + k - 52 = k := by omega
  rw [magPattern, hlog, if_neg (by omega), hexp, hshift, Nat.mul_div_cancel _ (Nat.two_pow_pos k), positivePattern]

/-- The pattern of a magnitude that is a binary64 value is finite, has sign 0 and holds that magnitude (R100). -/
theorem magPattern_spec {a k : ℕ} (ha : a < 2 ^ 53) (hk : k ≤ 2045) :
    isFinite (magPattern (a * 2 ^ k)) = true ∧ (magPattern (a * 2 ^ k)).msb = false ∧
      scaledMag (magPattern (a * 2 ^ k)) = a * 2 ^ k := by
  obtain hsub | ⟨a', k', hlow, hhigh, hk', heq⟩ := subnormal_or_normal (k := k) ha
  · have h0 : 0 < 2 ^ 11 := by decide
    rw [magPattern_subnormal hsub, isFinite, scaledMag, expField_positivePattern h0 hsub,
      fracField_positivePattern h0 hsub, msb_positivePattern h0 hsub]
    exact ⟨rfl, rfl, rfl⟩
  · have he : k' + 1 < 2 ^ 11 := by omega
    have hf : a' - 2 ^ 52 < 2 ^ 52 := by omega
    have hsig : 2 ^ 52 + (a' - 2 ^ 52) = a' := by omega
    rw [heq, magPattern_normal hlow hhigh, isFinite, scaledMag, expField_positivePattern he hf,
      fracField_positivePattern he hf, msb_positivePattern he hf, if_neg (by omega), hsig, Nat.add_sub_cancel]
    exact ⟨by rw [bne_iff_ne]; omega, rfl, rfl⟩

/-- Where the significand has all its bits, or the spacing is one unit, the fraction field has its parity. -/
theorem fracField_magPattern_parity {a k : ℕ} (ha : a ≤ 2 ^ 53) (hk : k ≤ 2045) (hcarry : a = 2 ^ 53 → k < 2045)
    (hfull : k = 0 ∨ 2 ^ 52 ≤ a) : fracField (magPattern (a * 2 ^ k)) % 2 = a % 2 := by
  obtain hsub | hlow := lt_or_ge a (2 ^ 52)
  · obtain rfl : k = 0 := by omega
    rw [pow_zero, mul_one, magPattern_subnormal hsub, fracField_positivePattern (by decide) hsub]
  · obtain hhigh | rfl := ha.lt_or_eq
    · rw [magPattern_normal hlow hhigh, fracField_positivePattern (by omega) (by omega)]
      omega
    · have := hcarry rfl
      rw [carried_significand, magPattern_normal le_rfl (by decide), fracField_positivePattern (by omega) (by decide)]
      rfl

/-! ### The pattern of a signed value -/

/-- The sign bit is in neither field. -/
theorem expField_sign_or (b : Pattern) : expField (0x8000000000000000 ||| b) = expField b := by
  have hsign : (0x8000000000000000 : Pattern).extractLsb' 52 11 = 0#11 := rfl
  rw [expField, BitVec.extractLsb'_or, hsign, BitVec.zero_or, expField]

@[inherit_doc expField_sign_or]
theorem fracField_sign_or (b : Pattern) : fracField (0x8000000000000000 ||| b) = fracField b := by
  have hsign : (0x8000000000000000 : Pattern).extractLsb' 0 52 = 0#52 := rfl
  rw [fracField, BitVec.extractLsb'_or, hsign, BitVec.zero_or, fracField]

theorem fracField_patternOf (v : ℤ) : fracField (patternOf v) = fracField (magPattern v.natAbs) := by
  rw [patternOf]; split
  · exact fracField_sign_or _
  · rfl

theorem isFinite_patternOf {v : ℤ} (hv : Binary64 v) : isFinite (patternOf v) = true := by
  obtain ⟨a, k, ha, hk, hmag⟩ := hv
  have hfin := (magPattern_spec ha hk).1
  rw [patternOf, hmag]; split
  · rwa [isFinite, expField_sign_or]
  · exact hfin

/-- `patternOf` gives the pattern of every value that has one. -/
theorem scaledVal_patternOf {v : ℤ} (hv : Binary64 v) : scaledVal (patternOf v) = v := by
  obtain ⟨a, k, ha, hk, hmag⟩ := hv
  obtain ⟨-, hmsb, hval⟩ := magPattern_spec ha hk
  rw [← hmag] at hmsb hval
  rw [patternOf]; split
  case isTrue hneg =>
    have hsign : (0x8000000000000000 ||| magPattern v.natAbs).msb = true := by
      rw [BitVec.msb_or]; exact Bool.true_or _
    rw [scaledVal, if_pos hsign, scaledMag, expField_sign_or, fracField_sign_or, ← scaledMag, hval]
    omega
  case isFalse hpos =>
    rw [scaledVal, hmsb, if_neg Bool.false_ne_true, hval]
    omega

/-- Every finite pattern holds such a value (R100). -/
theorem binary64_scaledVal {b : Pattern} (hb : isFinite b = true) : Binary64 (scaledVal b) := by
  have habs : (scaledVal b).natAbs = scaledMag b := by
    rw [scaledVal]; split <;> simp
  have hexp := expField_lt b
  have hfrac := fracField_lt b
  have hne : expField b ≠ 0x7FF := by simpa [isFinite] using hb
  rw [Binary64, habs, scaledMag]
  split
  · exact ⟨fracField b, 0, by omega, by omega, by rw [pow_zero, mul_one]⟩
  · exact ⟨_, _, by omega, by omega, rfl⟩

end Sys2Proof.Machine
end

section
/-! `RN` (41_quantizer.md R101): the rounded value is the nearest binary64 value, ties to the even significand. -/

namespace Sys2Proof.Machine

/-! ### Rounding to an integer, ties to even -/

/-- The rounded quotient is within half a unit of the exact one, as a distance. -/
theorem two_mul_abs_sub_nearestEven_le {n d : ℕ} (hd : 0 < d) : 2 * |(n : ℤ) - nearestEven n d * d| ≤ d := by
  obtain ⟨hlow, hhigh⟩ := nearestEven_close n d hd
  zify at hlow hhigh
  obtain ⟨habs, -⟩ | ⟨habs, -⟩ := abs_cases ((n : ℤ) - nearestEven n d * d) <;> rw [habs] <;> linarith

/-- A tie goes to the even neighbour. -/
theorem nearestEven_even_of_tie {n d : ℕ} (hd : 0 < d)
    (htie : 2 * n = 2 * (nearestEven n d * d) + d ∨ 2 * (nearestEven n d * d) = 2 * n + d) :
    nearestEven n d % 2 = 0 := by
  have hdiv := Nat.div_add_mod' n d
  have hlt := Nat.mod_lt n hd
  have hsucc : (n / d + 1) * d = n / d * d + d := Nat.succ_mul ..
  simp only [nearestEven] at htie ⊢
  split at htie
  · omega
  · split at htie
    · rw [hsucc] at htie; omega
    · rw [if_neg (by omega), if_neg (by omega)]
      split <;> omega

/-- No integer is nearer to `n / d` than the rounded one, and only of an even one can another be as near. -/
theorem nearestEven_nearest {n d : ℕ} (hd : 0 < d) (e : ℤ) :
    |(n : ℤ) - nearestEven n d * d| ≤ |(n : ℤ) - e * d| ∧
      (|(n : ℤ) - nearestEven n d * d| = |(n : ℤ) - e * d| → e ≠ nearestEven n d → nearestEven n d % 2 = 0) := by
  have hclose := two_mul_abs_sub_nearestEven_le (n := n) hd
  obtain rfl | hne := eq_or_ne e (nearestEven n d)
  · exact ⟨le_rfl, fun _ h => absurd rfl h⟩
  · have hapart : (d : ℤ) ≤ |(n : ℤ) - nearestEven n d * d| + |(n : ℤ) - e * d| := by
      calc (d : ℤ) ≤ |e - nearestEven n d| * d :=
            le_mul_of_one_le_left (by positivity) (Int.one_le_abs (sub_ne_zero.2 hne))
        _ = |((n : ℤ) - nearestEven n d * d) - (n - e * d)| := by
            rw [← Nat.abs_cast d, ← abs_mul, Nat.abs_cast]
            congr 1; ring
        _ ≤ _ := abs_sub _ _
    refine ⟨by linarith, fun htie _ => nearestEven_even_of_tie hd ?_⟩
    have hhalf : 2 * |(n : ℤ) - nearestEven n d * d| = d := by linarith
    zify
    obtain ⟨habs, -⟩ | ⟨habs, -⟩ := abs_cases ((n : ℤ) - nearestEven n d * d)
    · exact .inl (by linarith)
    · exact .inr (by linarith)

/-! ### Rounding a magnitude -/

/-- The spacing of the values around `n / d` is `2^(ulpExp n d)` units (R101). -/
def ulpExp (n d : ℕ) : ℕ := (n / d).log2 - 52

/-- The significand that `n / d` is rounded to. -/
def roundedSignificand (n d : ℕ) : ℕ := nearestEven n (d * 2 ^ ulpExp n d)

theorem roundMag_eq (n d : ℕ) : roundMag n d = roundedSignificand n d * 2 ^ ulpExp n d := rfl

theorem roundMag_mul (n d : ℕ) :
    (roundMag n d : ℤ) * d = roundedSignificand n d * ((d * 2 ^ ulpExp n d : ℕ) : ℤ) := by
  rw [roundMag_eq]; push_cast; ring

section roundMag
variable {n d : ℕ}

/-- A quotient of `53 + j` bits has a spacing of at most `2^j` units. -/
theorem ulpExp_le {j : ℕ} (hd : 0 < d) (h : n < d * 2 ^ (53 + j)) : ulpExp n d ≤ j := by
  have hq : n / d < 2 ^ (53 + j) := (Nat.div_lt_iff_lt_mul hd).2 (by rwa [mul_comm])
  obtain h0 | h0 := eq_or_ne (n / d) 0
  · rw [ulpExp, h0]; exact Nat.zero_le j
  · have := (Nat.log2_lt h0).2 hq
    rw [ulpExp]; omega

/-- A quotient has at most 53 bits above its spacing. -/
theorem lt_of_ulpExp (hd : 0 < d) : n < (d * 2 ^ ulpExp n d) * 2 ^ 53 := by
  have hq : n / d < 2 ^ (ulpExp n d + 53) :=
    Nat.lt_log2_self.trans_le (Nat.pow_le_pow_right (by decide) (by rw [ulpExp]; omega))
  rw [pow_add, Nat.div_lt_iff_lt_mul hd] at hq
  calc n < 2 ^ ulpExp n d * 2 ^ 53 * d := hq
    _ = _ := by ring

/-- Where the spacing is more than one unit, a quotient has all 53 bits. -/
theorem le_of_ulpExp_pos (hd : 0 < d) (hk : 0 < ulpExp n d) : (d * 2 ^ ulpExp n d) * 2 ^ 52 ≤ n := by
  have h0 : n / d ≠ 0 := by
    intro h
    rw [ulpExp, h] at hk
    exact absurd hk (by decide)
  have hq : 2 ^ (ulpExp n d + 52) ≤ n / d := by
    have hexp : ulpExp n d + 52 = (n / d).log2 := by rw [ulpExp] at hk ⊢; omega
    rw [hexp]
    exact Nat.log2_self_le h0
  rw [pow_add, Nat.le_div_iff_mul_le hd] at hq
  calc _ = 2 ^ ulpExp n d * 2 ^ 52 * d := by ring
    _ ≤ n := hq

theorem roundedSignificand_le (hd : 0 < d) : roundedSignificand n d ≤ 2 ^ 53 := by
  have hq : n / (d * 2 ^ ulpExp n d) < 2 ^ 53 :=
    (Nat.div_lt_iff_lt_mul (by positivity)).2 (by rw [mul_comm]; exact lt_of_ulpExp hd)
  exact (nearestEven_bounds n _).2.trans hq

theorem roundedSignificand_full (hd : 0 < d) : ulpExp n d = 0 ∨ 2 ^ 52 ≤ roundedSignificand n d := by
  refine (Nat.eq_zero_or_pos _).imp_right fun hk => ?_
  have hq : 2 ^ 52 ≤ n / (d * 2 ^ ulpExp n d) :=
    (Nat.le_div_iff_mul_le (by positivity)).2 (by rw [mul_comm]; exact le_of_ulpExp_pos hd hk)
  exact hq.trans (nearestEven_bounds n _).1

theorem overflowMag_eq_mul_pow : overflowMag = (2 ^ 54 - 1) * 2 ^ 2044 := by
  rw [overflowMag_eq, unitsPerOne_eq]
  decide +kernel

/-- Below the overflow threshold the spacing is that of a finite exponent, and a carry leaves one more (R101). -/
theorem ulpExp_of_lt_overflow (hd : 0 < d) (h : n < d * overflowMag) :
    ulpExp n d ≤ 2045 ∧ (roundedSignificand n d = 2 ^ 53 → ulpExp n d < 2045) := by
  have htop : n < d * 2 ^ (53 + 2045) :=
    h.trans_le (Nat.mul_le_mul_left d (by rw [overflowMag_eq_mul_pow]; decide +kernel))
  have hk := ulpExp_le hd htop
  refine ⟨hk, fun hcarry => lt_of_le_of_ne hk fun hlast => ?_⟩
  have hclose := (nearestEven_close n (d * 2 ^ ulpExp n d) (by positivity)).1
  rw [← roundedSignificand, hcarry, hlast] at hclose
  rw [overflowMag_eq_mul_pow] at h
  have htwo : d * 2 ^ 2045 = 2 * (d * 2 ^ 2044) := by rw [pow_succ' 2 2044, mul_left_comm]
  have hover : d * ((2 ^ 54 - 1) * 2 ^ 2044) = (2 ^ 54 - 1) * (d * 2 ^ 2044) := mul_left_comm _ _ _
  rw [htwo] at hclose
  rw [hover] at h
  generalize d * 2 ^ 2044 = x at hclose h
  omega

/-- The rounded magnitude is within half the spacing of a quotient of `53 + j` bits. -/
theorem roundMag_close {j : ℕ} (hd : 0 < d) (h : n < d * 2 ^ (53 + j)) :
    2 * |(n : ℤ) - roundMag n d * d| ≤ d * 2 ^ j := by
  have hspacing : d * 2 ^ ulpExp n d ≤ d * 2 ^ j :=
    Nat.mul_le_mul_left d (Nat.pow_le_pow_right (by decide) (ulpExp_le hd h))
  rw [roundMag_mul]
  exact (two_mul_abs_sub_nearestEven_le (by positivity)).trans (by exact_mod_cast hspacing)

end roundMag

/-! ### What rounding is -/

/-- `v` is the scaled rational `num / den` rounded: a binary64 value none is nearer than, with an even fraction field
where another is as near (R101). -/
structure RoundsTo (num : ℤ) (den : ℕ) (v : ℤ) : Prop where
  binary64 : Binary64 v
  nearest : ∀ c, Binary64 c → |num - v * den| ≤ |num - c * den|
  even : ∀ c, Binary64 c → |num - v * den| = |num - c * den| → c ≠ v → fracField (patternOf v) % 2 = 0

section nearest
variable {n d : ℕ} {c : ℤ}

/-- Among the whole numbers of spacings the rounded magnitude is nearest. -/
theorem roundMag_nearest_of_dvd (hd : 0 < d) (hc : ((2 ^ ulpExp n d : ℕ) : ℤ) ∣ c) :
    |(n : ℤ) - roundMag n d * d| ≤ |n - c * d| ∧
      (|(n : ℤ) - roundMag n d * d| = |n - c * d| → c ≠ roundMag n d → roundedSignificand n d % 2 = 0) := by
  obtain ⟨e, rfl⟩ := hc
  have hmul : ((2 ^ ulpExp n d : ℕ) : ℤ) * e * d = e * ((d * 2 ^ ulpExp n d : ℕ) : ℤ) := by push_cast; ring
  obtain ⟨hnear, heven⟩ := nearestEven_nearest (n := n) (d := d * 2 ^ ulpExp n d) (by positivity) e
  rw [roundMag_mul, hmul]
  refine ⟨hnear, fun htie hne => heven htie fun he => hne ?_⟩
  rw [he, roundMag_eq, roundedSignificand]
  push_cast; ring

/-- A magnitude below the binade of `n / d` is farther from it than the binade's lower end, and so than the rounded
magnitude. -/
theorem roundMag_nearer_of_lt (hd : 0 < d) (hpos : 0 < ulpExp n d) (hc : c.natAbs < 2 ^ 52 * 2 ^ ulpExp n d) :
    |(n : ℤ) - roundMag n d * d| < |n - c * d| := by
  have hend : ((2 ^ 52 : ℕ) : ℤ) * ((d * 2 ^ ulpExp n d : ℕ) : ℤ) ≤ n := by
    rw [mul_comm]; exact_mod_cast le_of_ulpExp_pos hd hpos
  have hlt : c * d < ((2 ^ 52 : ℕ) : ℤ) * ((d * 2 ^ ulpExp n d : ℕ) : ℤ) := by
    have hd' : (0 : ℤ) < d := by exact_mod_cast hd
    calc c * d ≤ c.natAbs * d := by gcongr; exact Int.le_natAbs
      _ < ((2 ^ 52 * 2 ^ ulpExp n d : ℕ) : ℤ) * d := by gcongr
      _ = _ := by push_cast; ring
  have hnear := (nearestEven_nearest (n := n) (d := d * 2 ^ ulpExp n d) (by positivity) ((2 ^ 52 : ℕ) : ℤ)).1
  rw [abs_of_nonneg (sub_nonneg.2 hend)] at hnear
  rw [roundMag_mul, abs_of_nonneg (show 0 ≤ (n : ℤ) - c * d by linarith)]
  exact hnear.trans_lt (by linarith)

/-- No binary64 value is nearer than the rounded magnitude: it is a whole number of spacings, or of finer spacing and
then below the binade. -/
theorem roundMag_nearest (hd : 0 < d) (hc : Binary64 c) :
    |(n : ℤ) - roundMag n d * d| ≤ |n - c * d| ∧
      (|(n : ℤ) - roundMag n d * d| = |n - c * d| → c ≠ roundMag n d → roundedSignificand n d % 2 = 0) := by
  obtain ⟨a, k, ha, -, hc⟩ := hc
  obtain hin | hbelow := le_or_gt (ulpExp n d) k
  · exact roundMag_nearest_of_dvd hd (Int.natCast_dvd.2 (hc ▸ Dvd.dvd.mul_left (pow_dvd_pow 2 hin) a))
  · have hstrict : |(n : ℤ) - roundMag n d * d| < |n - c * d| := by
      refine roundMag_nearer_of_lt hd (by omega) ?_
      calc c.natAbs < 2 ^ 53 * 2 ^ k := hc ▸ Nat.mul_lt_mul_of_pos_right ha (Nat.two_pow_pos k)
        _ = 2 ^ 52 * 2 ^ (k + 1) := carried_significand k
        _ ≤ 2 ^ 52 * 2 ^ ulpExp n d := Nat.mul_le_mul_left _ (Nat.pow_le_pow_right (by decide) hbelow)
    exact ⟨hstrict.le, fun htie => absurd htie hstrict.ne⟩

theorem roundsTo_roundMag (hd : 0 < d) (h : n < d * overflowMag) : RoundsTo n d (roundMag n d) := by
  obtain ⟨hk, hcarry⟩ := ulpExp_of_lt_overflow hd h
  have hle := roundedSignificand_le (n := n) hd
  have hparity : fracField (patternOf (roundMag n d)) % 2 = roundedSignificand n d % 2 := by
    rw [fracField_patternOf, Int.natAbs_natCast, roundMag_eq]
    exact fracField_magPattern_parity hle hk hcarry (roundedSignificand_full hd)
  exact {
    binary64 := binary64_of_significand_le hle hk hcarry (by rw [Int.natAbs_natCast, roundMag_eq])
    nearest := fun c hc => (roundMag_nearest hd hc).1
    even := fun c hc htie hne => hparity.trans ((roundMag_nearest hd hc).2 htie hne) }

end nearest

/-- Rounding is symmetric about 0. -/
theorem RoundsTo.neg {num v : ℤ} {den : ℕ} (h : RoundsTo num den v) : RoundsTo (-num) den (-v) := by
  have hflip : ∀ c : ℤ, |(-num) - c * den| = |num - -c * den| := fun c => by rw [← abs_neg]; congr 1; ring
  refine ⟨h.binary64.neg, fun c hc => ?_, fun c hc htie hne => ?_⟩
  · rw [hflip, hflip, neg_neg]; exact h.nearest _ hc.neg
  · rw [hflip, hflip, neg_neg] at htie
    rw [fracField_patternOf, Int.natAbs_neg, ← fracField_patternOf]
    exact h.even _ hc.neg htie fun h => hne (by rw [← h, neg_neg])

/-! ### `roundNearest` -/

theorem roundNearest_eq_none_iff (num : ℤ) (den : ℕ) :
    roundNearest num den = none ↔ den * overflowMag ≤ num.natAbs := by
  rw [roundNearest]
  split
  case isTrue hover => exact iff_of_true rfl hover
  case isFalse hlt => split <;> exact iff_of_false (Option.some_ne_none _) hlt

theorem natAbs_lt_of_roundNearest {num v : ℤ} {den : ℕ} (h : roundNearest num den = some v) :
    num.natAbs < den * overflowMag := by
  rw [← not_le, ← roundNearest_eq_none_iff, h]; exact Option.some_ne_none v

/-- `roundNearest` rounds (R101). -/
theorem roundsTo_of_roundNearest {num v : ℤ} {den : ℕ} (hden : 0 < den) (h : roundNearest num den = some v) :
    RoundsTo num den v := by
  have hlt := natAbs_lt_of_roundNearest h
  have hmag := roundsTo_roundMag hden hlt
  rw [roundNearest, if_neg hlt.not_ge] at h
  split at h
  case isTrue hneg =>
    obtain rfl := Option.some.inj h
    have hnum : -(num.natAbs : ℤ) = num := by omega
    have hneg := hmag.neg
    rwa [hnum] at hneg
  case isFalse hpos =>
    obtain rfl := Option.some.inj h
    have hnum : (num.natAbs : ℤ) = num := by omega
    rwa [hnum] at hmag

/-- A rounded quotient of `53 + j` bits is within half of `2^j` units. -/
theorem roundNearest_close {num v : ℤ} {den j : ℕ} (hden : 0 < den) (h : roundNearest num den = some v)
    (hlt : num.natAbs < den * 2 ^ (53 + j)) : 2 * |num - v * den| ≤ den * 2 ^ j := by
  have hmag := roundMag_close hden hlt
  rw [roundNearest, if_neg (natAbs_lt_of_roundNearest h).not_ge] at h
  split at h
  case isTrue hneg =>
    obtain rfl := Option.some.inj h
    have hnum : (num.natAbs : ℤ) = -num := by omega
    rw [hnum] at hmag
    rwa [← abs_neg, neg_sub', neg_mul, neg_neg]
  case isFalse hpos =>
    obtain rfl := Option.some.inj h
    have hnum : (num.natAbs : ℤ) = num := by omega
    rwa [hnum] at hmag

theorem exists_roundNearest {num : ℤ} {den : ℕ} (h : num.natAbs < den * overflowMag) :
    ∃ v, roundNearest num den = some v :=
  Option.ne_none_iff_exists'.1 fun hnone => absurd ((roundNearest_eq_none_iff _ _).1 hnone) h.not_ge

/-- Rounding does not pass a binary64 value from below. -/
theorem RoundsTo.le {num v c : ℤ} {den : ℕ} (hden : 0 < den) (h : RoundsTo num den v) (hc : Binary64 c)
    (hnum : num ≤ c * den) : v ≤ c := by
  by_contra hlt
  have hmul : c * den < v * den := Int.mul_lt_mul_of_pos_right (not_le.1 hlt) (by exact_mod_cast hden)
  have hnear := h.nearest c hc
  rw [abs_of_neg (by linarith), abs_of_nonpos (by linarith)] at hnear
  linarith

/-- Rounding does not pass a binary64 value from above. -/
theorem RoundsTo.ge {num v c : ℤ} {den : ℕ} (hden : 0 < den) (h : RoundsTo num den v) (hc : Binary64 c)
    (hnum : c * den ≤ num) : c ≤ v := by
  have hle : -v ≤ -c := h.neg.le hden hc.neg (by linarith)
  linarith

/-- A binary64 value is at least half the widest spacing below the overflow threshold. -/
theorem Binary64.natAbs_add_le {v : ℤ} (hv : Binary64 v) : v.natAbs + 2 ^ 2044 ≤ overflowMag := by
  obtain ⟨a, k, ha, hk, hv⟩ := hv
  calc v.natAbs + 2 ^ 2044 ≤ (2 ^ 53 - 1) * 2 ^ 2045 + 2 ^ 2044 := by
        rw [hv]; gcongr
        · exact Nat.le_sub_one_of_lt ha
        · exact one_le_two
    _ ≤ overflowMag := by rw [overflowMag_eq_mul_pow]; decide +kernel

theorem Binary64.natAbs_lt {v : ℤ} (hv : Binary64 v) : v.natAbs < overflowMag :=
  (Nat.lt_add_of_pos_right (pow_pos two_pos 2044)).trans_le hv.natAbs_add_le

/-- `RN(q) = q` when `q` is a binary64 value (R101). -/
theorem roundNearest_of_binary64 {v : ℤ} (hv : Binary64 v) : roundNearest v 1 = some v := by
  obtain ⟨w, hw⟩ := exists_roundNearest (num := v) (den := 1) (by rw [one_mul]; exact hv.natAbs_lt)
  have hround := roundsTo_of_roundNearest one_pos hw
  have hle : w ≤ v := hround.le one_pos hv (by simp)
  have hge : v ≤ w := hround.ge one_pos hv (by simp)
  rw [hw, le_antisymm hle hge]

/-! ### Over the rationals -/

theorem unitsPerOne_cast_pos : (0 : ℚ) < unitsPerOne := by exact_mod_cast unitsPerOne_pos

theorem ratOf_le_ratOf {v w : ℤ} : ratOf v ≤ ratOf w ↔ v ≤ w := by
  rw [ratOf, ratOf, div_le_div_iff_of_pos_right unitsPerOne_cast_pos, Int.cast_le]

/-- The distance of a scaled rational from a scaled integer, over the rationals. -/
theorem abs_ratOf_div_sub {den : ℕ} (hden : 0 < den) (num v : ℤ) :
    |ratOf num / den - ratOf v| = ((|num - v * den| : ℤ) : ℚ) / (unitsPerOne * den) := by
  have hU := unitsPerOne_cast_pos
  have hd : (0 : ℚ) < den := by exact_mod_cast hden
  have hdiff : ratOf num / den - ratOf v = ((num - v * den : ℤ) : ℚ) / (unitsPerOne * den) := by
    rw [ratOf, ratOf]; push_cast; field_simp
  rw [hdiff, abs_div, abs_of_pos (mul_pos hU hd), Int.cast_abs]

/-- The overflow threshold of R101, over the rationals. -/
theorem overflow_iff {den : ℕ} (hden : 0 < den) (num : ℤ) :
    den * overflowMag ≤ num.natAbs ↔ (2 ^ 1024 - 2 ^ 970 : ℚ) ≤ |ratOf num / den| := by
  have hU := unitsPerOne_cast_pos
  have hd : (0 : ℚ) < den := by exact_mod_cast hden
  have hthreshold : ((2 ^ 1024 - 2 ^ 970 : ℕ) : ℚ) = 2 ^ 1024 - 2 ^ 970 := by
    rw [Nat.cast_sub (pow_le_pow_right₀ one_le_two (by decide)), Nat.cast_pow, Nat.cast_pow, Nat.cast_ofNat]
  rw [ratOf, div_div, abs_div, abs_of_pos (mul_pos hU hd), le_div_iff₀ (mul_pos hU hd), ← Nat.cast_le (α := ℚ),
    Nat.cast_natAbs, Int.cast_abs, overflowMag_eq, Nat.cast_mul, Nat.cast_mul, hthreshold, mul_left_comm,
    mul_comm (den : ℚ)]

/-- A rounded scaled rational is one of the rationals (R101). -/
theorem RoundsTo.isRounded {num v : ℤ} {den : ℕ} (hden : 0 < den) (h : RoundsTo num den v)
    (hlt : num.natAbs < den * overflowMag) : isRounded (ratOf num / den) (ratOf v) := by
  have hpos : (0 : ℚ) < unitsPerOne * den := mul_pos unitsPerOne_cast_pos (by exact_mod_cast hden)
  refine ⟨not_le.1 fun hle => hlt.not_ge ((overflow_iff hden num).2 hle), patternOf v, isFinite_patternOf h.binary64,
    by rw [coord, scaledVal_patternOf h.binary64], fun c hc => ?_⟩
  have hvalue := binary64_scaledVal hc
  rw [coord, abs_ratOf_div_sub hden, abs_ratOf_div_sub hden, div_le_div_iff_of_pos_right hpos, div_left_inj' hpos.ne',
    Int.cast_le, Int.cast_inj]
  exact ⟨h.nearest _ hvalue, fun htie hne => h.even _ hvalue htie fun heq => hne (by rw [heq])⟩

/-- Settles O13: `roundNearest` overflows by its own test, and what it gives otherwise is nearest among the binary64
values. -/
theorem roundingIsNearestTiesToEven : Obligations.RoundingIsNearestTiesToEven := by
  intro num den hden
  refine ⟨by rw [roundNearest_eq_none_iff, overflow_iff hden], fun v hv => ?_⟩
  exact (roundsTo_of_roundNearest hden hv).isRounded hden (natAbs_lt_of_roundNearest hv)

end Sys2Proof.Machine
end

section
/-! `rhaz` (41_quantizer.md R102) and the three rounded operations of `quant1` over the rationals (R104). -/

namespace Sys2Proof.Machine

/-! ### `rhaz` -/

/-- `rhaz(v)` as R102 writes it. -/
def rhaz (v : ℚ) : ℤ := if 0 ≤ v then ⌊v + 1 / 2⌋ else -⌊-v + 1 / 2⌋

/-- The integer division of `roundHalfAway` is the floor of R102. -/
theorem ediv_eq_floor_add_half (num : ℤ) {den : ℕ} (hden : 0 < den) :
    (2 * num + den) / (2 * den) = ⌊(num : ℚ) / den + 1 / 2⌋ := by
  have hd : (den : ℚ) ≠ 0 := by exact_mod_cast hden.ne'
  have hfrac : (num : ℚ) / den + 1 / 2 = ((2 * num + den : ℤ) : ℚ) / ((2 * den : ℕ) : ℚ) := by
    push_cast; field_simp
  rw [hfrac, Rat.floor_intCast_div_natCast]
  push_cast; rfl

theorem roundHalfAway_eq_rhaz (num : ℤ) {den : ℕ} (hden : 0 < den) : roundHalfAway num den = rhaz (num / den) := by
  have hd : (0 : ℚ) < den := by exact_mod_cast hden
  have hsign : (0 : ℚ) ≤ num / den ↔ 0 ≤ num := by rw [le_div_iff₀ hd, zero_mul, Int.cast_nonneg_iff]
  rw [roundHalfAway, rhaz, ediv_eq_floor_add_half num hden, ediv_eq_floor_add_half (-num) hden, Int.cast_neg, neg_div]
  exact if_congr hsign.symm rfl rfl

theorem roundHalfAway_num_den (v : ℚ) : roundHalfAway v.num v.den = rhaz v := by
  rw [roundHalfAway_eq_rhaz _ v.den_pos, Rat.num_div_den]

/-- Settles O14: the two divisions of `roundHalfAway` are floors. -/
theorem roundingHalfAwayFromZero : Obligations.RoundingHalfAwayFromZero :=
  ⟨roundHalfAway_num_den, by decide, by decide, by decide, by decide⟩

theorem rhaz_of_nonneg {v : ℚ} (hv : 0 ≤ v) : rhaz v = ⌊v + 1 / 2⌋ := if_pos hv

/-- `rhaz` moves a value by at most one half. -/
theorem abs_rhaz_sub_le (v : ℚ) : |(rhaz v : ℚ) - v| ≤ 1 / 2 := by
  have hlow := Int.floor_le (v + 1 / 2)
  have hhigh := Int.lt_floor_add_one (v + 1 / 2)
  have hlow' := Int.floor_le (-v + 1 / 2)
  have hhigh' := Int.lt_floor_add_one (-v + 1 / 2)
  rw [rhaz, abs_le]
  split
  · constructor <;> linarith
  · push_cast
    constructor <;> linarith

/-- `rhaz` of a value between 0 and an integer lies between them. -/
theorem rhaz_mem_Icc {v : ℚ} {n : ℤ} (hv : 0 ≤ v) (hn : v ≤ n) : 0 ≤ rhaz v ∧ rhaz v ≤ n := by
  rw [rhaz_of_nonneg hv]
  refine ⟨Int.floor_nonneg.2 (by linarith), Int.lt_add_one_iff.1 (Int.floor_lt.2 ?_)⟩
  push_cast; linarith

/-- Values less than 1 apart have integers at most 1 apart. -/
theorem abs_rhaz_sub_rhaz_le {v w : ℚ} (hv : 0 ≤ v) (hw : 0 ≤ w) (hvw : |w - v| < 1) : |rhaz v - rhaz w| ≤ 1 := by
  obtain ⟨hlow, hhigh⟩ := abs_lt.1 hvw
  have hvl := Int.floor_le (v + 1 / 2)
  have hvh := Int.lt_floor_add_one (v + 1 / 2)
  have hwl := Int.floor_le (w + 1 / 2)
  have hwh := Int.lt_floor_add_one (w + 1 / 2)
  rw [rhaz_of_nonneg hv, rhaz_of_nonneg hw, abs_le, ← Int.lt_add_one_iff, ← Int.lt_add_one_iff]
  constructor <;> qify <;> linarith

/-- A value has the integer of another that is nearer to it than to any half-integer. -/
theorem rhaz_eq_rhaz_of_far_from_half {v w ε : ℚ} (hv : 0 ≤ v) (hw : 0 ≤ w) (hvw : |w - v| < ε)
    (hfar : ∀ k : ℤ, ε ≤ |w - (k + 1 / 2)|) : rhaz v = rhaz w := by
  obtain ⟨hlow, hhigh⟩ := abs_lt.1 hvw
  have hwl := Int.floor_le (w + 1 / 2)
  have hwh := Int.lt_floor_add_one (w + 1 / 2)
  rw [rhaz_of_nonneg hv, rhaz_of_nonneg hw, Int.floor_eq_iff]
  generalize ⌊w + 1 / 2⌋ = k at hwl hwh
  have hbelow := hfar (k - 1)
  have habove := hfar k
  push_cast at hbelow
  rw [abs_of_nonneg (by linarith)] at hbelow
  rw [abs_of_nonpos (by linarith)] at habove
  constructor <;> linarith

/-! ### Scaled integers over the rationals -/

theorem ratOf_add_mul (v : ℤ) (n : ℕ) : ratOf (v + n * unitsPerOne) = ratOf v + n := by
  have := unitsPerOne_cast_pos.ne'
  rw [ratOf, ratOf]; push_cast; field_simp

theorem ratOf_neg (v : ℤ) : ratOf (-v) = -ratOf v := by rw [ratOf, ratOf, Int.cast_neg, neg_div]

theorem ratOf_mul_two_pow (t : ℤ) (n : ℕ) : ratOf (t * 2 ^ n) = ratOf t * 2 ^ n := by
  rw [ratOf, ratOf]; push_cast; ring

theorem natCast_le_abs_ratOf_div_iff {den : ℕ} (hden : 0 < den) (n : ℕ) (num : ℤ) :
    (n : ℚ) ≤ |ratOf num / den| ↔ den * (n * unitsPerOne) ≤ num.natAbs := by
  have hpos : (0 : ℚ) < unitsPerOne * den := mul_pos unitsPerOne_cast_pos (by exact_mod_cast hden)
  rw [ratOf, div_div, abs_div, abs_of_pos hpos, le_div_iff₀ hpos, ← Nat.cast_le (α := ℚ), Nat.cast_natAbs, Int.cast_abs]
  push_cast
  rw [mul_comm (unitsPerOne : ℚ), mul_left_comm]

theorem natCast_le_abs_ratOf_iff (n : ℕ) (num : ℤ) : (n : ℚ) ≤ |ratOf num| ↔ n * unitsPerOne ≤ num.natAbs := by
  have h := natCast_le_abs_ratOf_div_iff one_pos n num
  rwa [Nat.cast_one, div_one, one_mul] at h

/-- A dyadic rational with 53 bits of significand is a binary64 value. -/
theorem exists_binary64_eq_div_two_pow {a j : ℕ} (ha : a < 2 ^ 53) (hj : j ≤ 1074) :
    ∃ c, Binary64 c ∧ ratOf c = (a : ℚ) / 2 ^ j := by
  refine ⟨((a * 2 ^ (1074 - j) : ℕ) : ℤ), ⟨a, 1074 - j, ha, by omega, rfl⟩, ?_⟩
  have hsplit : (2 : ℚ) ^ 1074 = 2 ^ (1074 - j) * 2 ^ j := by rw [← pow_add]; congr 1; omega
  have hU : (unitsPerOne : ℚ) = 2 ^ 1074 := by rw [unitsPerOne_eq, Nat.cast_pow, Nat.cast_ofNat]
  rw [ratOf, hU, hsplit]
  push_cast
  field_simp

section rounded
variable {num v c : ℤ} {den : ℕ}

theorem ratOf_div_le_iff (hden : 0 < den) : ratOf num / den ≤ ratOf c ↔ num ≤ c * den := by
  have hd : (0 : ℚ) < den := by exact_mod_cast hden
  rw [div_le_iff₀ hd, ratOf, ratOf, div_mul_eq_mul_div, div_le_div_iff_of_pos_right unitsPerOne_cast_pos]
  exact_mod_cast Iff.rfl

theorem ratOf_le_div_iff (hden : 0 < den) : ratOf c ≤ ratOf num / den ↔ c * den ≤ num := by
  have hd : (0 : ℚ) < den := by exact_mod_cast hden
  rw [le_div_iff₀ hd, ratOf, ratOf, div_mul_eq_mul_div, div_le_div_iff_of_pos_right unitsPerOne_cast_pos]
  exact_mod_cast Iff.rfl

/-- Rounding stays between dyadic rationals of 53 bits. -/
theorem RoundsTo.mem_Icc (hden : 0 < den) (h : RoundsTo num den v) {a b j : ℕ} (ha : a < 2 ^ 53) (hb : b < 2 ^ 53)
    (hj : j ≤ 1074) (hlow : (a : ℚ) / 2 ^ j ≤ ratOf num / den) (hhigh : ratOf num / den ≤ b / 2 ^ j) :
    (a : ℚ) / 2 ^ j ≤ ratOf v ∧ ratOf v ≤ b / 2 ^ j := by
  obtain ⟨c, hc, hca⟩ := exists_binary64_eq_div_two_pow ha hj
  obtain ⟨c', hc', hcb⟩ := exists_binary64_eq_div_two_pow hb hj
  rw [← hca, ratOf_le_div_iff hden] at hlow
  rw [← hcb, ratOf_div_le_iff hden] at hhigh
  rw [← hca, ← hcb, ratOf_le_ratOf, ratOf_le_ratOf]
  exact ⟨h.ge hden hc hlow, h.le hden hc' hhigh⟩

/-- A value below `2^e` is moved by at most `2^(e - 54)` when it is rounded (R101). -/
theorem abs_sub_ratOf_le_of_roundNearest (hden : 0 < den) (h : roundNearest num den = some v) {e : ℕ}
    (hlt : |ratOf num / den| < 2 ^ e) : |ratOf num / den - ratOf v| ≤ 2 ^ e / 2 ^ 54 := by
  obtain ⟨k, hU⟩ : ∃ k, unitsPerOne = 2 ^ 53 * 2 ^ k := ⟨1021, by rw [unitsPerOne_eq, ← pow_add]⟩
  have hmag : num.natAbs < den * 2 ^ (53 + (e + k)) := by
    have hexp : den * 2 ^ (53 + (e + k)) = den * (2 ^ e * unitsPerOne) := by rw [hU, pow_add, pow_add]; ring
    rw [hexp, ← not_le, ← natCast_le_abs_ratOf_div_iff hden, Nat.cast_pow, Nat.cast_ofNat, not_le]
    exact hlt
  have hclose : 2 * ((|num - v * den| : ℤ) : ℚ) ≤ den * 2 ^ (e + k) := by
    exact_mod_cast roundNearest_close hden h hmag
  have hpos : (0 : ℚ) < unitsPerOne * den := mul_pos unitsPerOne_cast_pos (by exact_mod_cast hden)
  have hhalf : (2 : ℚ) ^ e / 2 ^ 54 * (unitsPerOne * den) = den * 2 ^ (e + k) / 2 := by
    rw [hU, pow_add]; push_cast; ring
  rw [abs_ratOf_div_sub hden, div_le_iff₀ hpos, hhalf]
  linarith

end rounded

end Sys2Proof.Machine
end

section
/-! The quantizer (41_quantizer.md R104 to R109): when `quant1` has a value, and how near it is to the real-number
formula of R103. -/

namespace Sys2Proof.Machine

/-! ### The three operations of `quant1` -/

/-- The offset and the divisor of a coordinate (R103). -/
def IsAxis (off div : ℕ) : Prop := off = 180 ∧ div = 90 ∨ off = 90 ∧ div = 45

theorem IsAxis.off_eq {off div : ℕ} (h : IsAxis off div) : off = 2 * div ∧ 45 ≤ div ∧ div ≤ 90 := by
  rw [IsAxis] at h; omega

section operations
variable {b : Pattern} {off div : ℕ} {t : ℤ}

/-- The sum never overflows (R104). -/
theorem exists_quantSum (hb : isFinite b = true) (hoff : off ≤ 180) : ∃ t, quantSum b off = some t := by
  refine exists_roundNearest ?_
  have hvalue := (binary64_scaledVal hb).natAbs_add_le
  have hshift : off * unitsPerOne < 2 ^ 2044 := by
    refine (Nat.mul_le_mul_right _ hoff).trans_lt ?_
    rw [unitsPerOne_eq]; decide +kernel
  have hsum : (scaledVal b + off * unitsPerOne).natAbs ≤ (scaledVal b).natAbs + off * unitsPerOne :=
    (Int.natAbs_add_le _ _).trans_eq (by rw [Int.natAbs_mul, Int.natAbs_natCast, Int.natAbs_natCast])
  rw [one_mul]
  exact (hsum.trans_lt (Nat.add_lt_add_left hshift _)).trans_le hvalue

theorem roundsTo_of_quantSum (h : quantSum b off = some t) : RoundsTo (scaledVal b + off * unitsPerOne) 1 t :=
  roundsTo_of_roundNearest one_pos h

theorem ratOf_sum (b : Pattern) (off : ℕ) : ratOf (scaledVal b + off * unitsPerOne) / (1 : ℕ) = coord b + off := by
  rw [Nat.cast_one, div_one, ratOf_add_mul, coord]

theorem natAbs_mul_two_pow (t : ℤ) (n : ℕ) : (t * 2 ^ n).natAbs = t.natAbs * 2 ^ n := by
  rw [Int.natAbs_mul, Int.natAbs_pow]; rfl

/-- The product overflows from a sum of `2^994` on (R104). -/
theorem overflowMag_le_product (ht : 2 ^ 994 * unitsPerOne ≤ t.natAbs) : overflowMag ≤ (t * 2 ^ 30).natAbs := by
  rw [natAbs_mul_two_pow]
  refine le_trans ?_ (Nat.mul_le_mul_right _ ht)
  rw [overflowMag_eq_mul_pow, unitsPerOne_eq]
  decide +kernel

/-- Below that the product is a binary64 value: only the exponent changes (R104). -/
theorem binary64_product (ht : Binary64 t) (hlt : t.natAbs < 2 ^ 994 * unitsPerOne) : Binary64 (t * 2 ^ 30) := by
  obtain ⟨a, k, ha, -, hmag⟩ := ht
  refine binary64_of_lt (k := k + 30) ha (by rw [natAbs_mul_two_pow, hmag, mul_assoc, ← pow_add]) ?_
  rw [natAbs_mul_two_pow]
  refine (Nat.mul_lt_mul_of_pos_right hlt (by decide)).trans_eq ?_
  rw [unitsPerOne_eq]
  decide +kernel

theorem quantInt_of_not_finite (hb : isFinite b = false) : quantInt b off div = none := by
  rw [quantInt, hb, if_neg Bool.false_ne_true]

theorem quantInt_of_large_sum (hsum : quantSum b off = some t) (ht : 2 ^ 994 * unitsPerOne ≤ t.natAbs) :
    quantInt b off div = none := by
  have hover : roundNearest (t * 2 ^ 30) 1 = none := by
    rw [roundNearest_eq_none_iff, one_mul]; exact overflowMag_le_product ht
  rw [quantInt, hsum, Option.bind_some, hover, Option.bind_none, ite_self]

/-- Below the bound there is a quotient, and the integer is the quotient rounded half away from zero. -/
theorem quantInt_of_small_sum (hb : isFinite b = true) (hdiv : 0 < div) (hsum : quantSum b off = some t)
    (ht : t.natAbs < 2 ^ 994 * unitsPerOne) :
    ∃ v, roundNearest (t * 2 ^ 30) div = some v ∧ quantInt b off div = some (rhaz (ratOf v)) := by
  have hproduct := binary64_product (roundsTo_of_quantSum hsum).binary64 ht
  obtain ⟨v, hv⟩ := exists_roundNearest (hproduct.natAbs_lt.trans_le (Nat.le_mul_of_pos_left overflowMag hdiv))
  refine ⟨v, hv, ?_⟩
  rw [quantInt, if_pos hb, hsum, Option.bind_some, roundNearest_of_binary64 hproduct, Option.bind_some, hv,
    Option.map_some, roundHalfAway_eq_rhaz v unitsPerOne_pos, ratOf]

/-- A coordinate has no integer exactly when it is rejected (R107, R222). -/
theorem quantInt_eq_none_iff (hoff : off ≤ 180) (hdiv : 0 < div) : quantInt b off div = none ↔ coordRejected b off := by
  rw [coordRejected]
  cases hb : isFinite b with
  | false => exact iff_of_true (quantInt_of_not_finite hb) (.inl rfl)
  | true =>
    obtain ⟨t, hsum⟩ := exists_quantSum hb hoff
    obtain hlarge | hsmall := le_or_gt (2 ^ 994 * unitsPerOne) t.natAbs
    · exact iff_of_true (quantInt_of_large_sum hsum hlarge) (.inr ⟨t, hsum, hlarge⟩)
    · obtain ⟨v, -, hint⟩ := quantInt_of_small_sum hb hdiv hsum hsmall
      refine iff_of_false (by rw [hint]; exact Option.some_ne_none _) ?_
      rintro (habs | ⟨t', hsum', hlarge⟩)
      · exact Bool.noConfusion habs
      · obtain rfl := Option.some.inj (hsum.symm.trans hsum')
        exact hsmall.not_ge hlarge

theorem quant1_eq_none_iff (hoff : off ≤ 180) (hdiv : 0 < div) : quant1 b off div = none ↔ coordRejected b off := by
  rw [quant1, Option.map_eq_none_iff, quantInt_eq_none_iff hoff hdiv]

theorem two_pow_le_abs_ratOf_iff (n : ℕ) (t : ℤ) : (2 : ℚ) ^ n ≤ |ratOf t| ↔ 2 ^ n * unitsPerOne ≤ t.natAbs := by
  rw [← natCast_le_abs_ratOf_iff, Nat.cast_pow, Nat.cast_ofNat]

end operations

/-- Settles O15: each of the three operations is `roundNearest`, which rounds. -/
theorem quantizeFunction : Obligations.QuantizeFunction := by
  intro b off div haxis
  obtain ⟨hoff, hdiv, hdiv'⟩ := IsAxis.off_eq haxis
  have hpos : 0 < div := by omega
  refine ⟨fun hb => by rw [quant1, quantInt_of_not_finite hb, Option.map_none], fun hb => ?_⟩
  obtain ⟨t, hsum⟩ := exists_quantSum (off := off) hb (by omega)
  have hround := roundsTo_of_quantSum hsum
  have hproduct : ratOf (t * 2 ^ 30) / (1 : ℕ) = ratOf t * 2 ^ 30 := by
    rw [Nat.cast_one, div_one, ratOf_mul_two_pow]
  refine ⟨ratOf t, ?_, fun hlarge => ?_, fun hsmall => ?_⟩
  · rw [← ratOf_sum]
    exact hround.isRounded one_pos (natAbs_lt_of_roundNearest hsum)
  · rw [two_pow_le_abs_ratOf_iff] at hlarge
    rw [← hproduct, ← overflow_iff one_pos, one_mul, quant1, quantInt_of_large_sum hsum hlarge]
    exact ⟨overflowMag_le_product hlarge, rfl⟩
  · rw [← not_le, two_pow_le_abs_ratOf_iff, not_le] at hsmall
    have hvalue := roundNearest_of_binary64 (binary64_product hround.binary64 hsmall)
    obtain ⟨v, hv, hint⟩ := quantInt_of_small_sum hb hpos hsum hsmall
    refine ⟨?_, ratOf v, ?_, ?_⟩
    · have h := (roundsTo_of_roundNearest one_pos hvalue).isRounded one_pos (natAbs_lt_of_roundNearest hvalue)
      rwa [hproduct, ratOf_mul_two_pow] at h
    · rw [← ratOf_mul_two_pow]
      exact (roundsTo_of_roundNearest hpos hv).isRounded hpos (natAbs_lt_of_roundNearest hv)
    · rw [quant1, hint, Option.map_some]; rfl

/-! ### `QNT` -/

/-- `QNT` where a coordinate has no grid value (R107). -/
theorem execQnt_of_not_quantized {s : State} (he : s.err = 0) (h : quantLon s = none ∨ quantLat s = none) :
    execQnt s = .next (s.withErr (FaultCode.code .nonFinite)) := by
  rw [execQnt, whenRunning_running he, raise_running he]
  obtain h | h := h
  · rw [h]
  · rw [h]; cases quantLon s <;> rfl

theorem quantLon_eq_none_iff (s : State) : quantLon s = none ↔ coordRejected s.lon 180 :=
  quant1_eq_none_iff (by decide) (by decide)

theorem quantLat_eq_none_iff (s : State) : quantLat s = none ↔ coordRejected s.lat 90 :=
  quant1_eq_none_iff (by decide) (by decide)

/-- Settles O16: a coordinate has a grid value exactly when it is not rejected. -/
theorem quantizeCommand : Obligations.QuantizeCommand := by
  refine ⟨rfl, fun s he => ⟨fun hlon hlat => ?_, fun hrejected => ?_⟩⟩
  · rw [← quantLon_eq_none_iff] at hlon
    rw [← quantLat_eq_none_iff] at hlat
    obtain ⟨qx, hx⟩ := Option.ne_none_iff_exists'.1 hlon
    obtain ⟨qy, hy⟩ := Option.ne_none_iff_exists'.1 hlat
    exact ⟨qx, qy, hx, hy, execQnt_of_quantized he hx hy⟩
  · rw [← quantLon_eq_none_iff, ← quantLat_eq_none_iff] at hrejected
    exact execQnt_of_not_quantized he hrejected

/-! ### The nominal domain -/

/-- The real-number formula of R103, before it is rounded to an integer. -/
def exactQuotient (b : Pattern) (off div : ℕ) : ℚ := (coord b + off) * 2 ^ 30 / div

section nominal
variable {b : Pattern} {off div : ℕ}

theorem quotient_scale (hdiv : 0 < div) (a : ℚ) (j : ℕ) : a * div / 2 ^ (30 + j) = a / 2 ^ j / (2 ^ 30 / div) := by
  have hd : (div : ℚ) ≠ 0 := by exact_mod_cast hdiv.ne'
  rw [pow_add]; field_simp

theorem scale_pos (hdiv : 0 < div) : (0 : ℚ) < 2 ^ 30 / div := div_pos (by positivity) (by exact_mod_cast hdiv)

theorem le_quotient_iff (hdiv : 0 < div) (a x : ℚ) (j : ℕ) :
    a / 2 ^ j ≤ x * 2 ^ 30 / div ↔ a * div / 2 ^ (30 + j) ≤ x := by
  rw [quotient_scale hdiv, mul_div_assoc, ← div_le_iff₀ (scale_pos hdiv)]

theorem quotient_le_iff (hdiv : 0 < div) (a x : ℚ) (j : ℕ) :
    x * 2 ^ 30 / div ≤ a / 2 ^ j ↔ x ≤ a * div / 2 ^ (30 + j) := by
  rw [quotient_scale hdiv, mul_div_assoc, ← le_div_iff₀ (scale_pos hdiv)]

/-- A quotient in `0..2^32` comes from a value of at most 360 degrees. -/
theorem mem_Icc_of_quotient_mem_Icc (haxis : IsAxis off div) {x : ℚ} (hlow : 0 ≤ x * 2 ^ 30 / div)
    (hhigh : x * 2 ^ 30 / div ≤ 2 ^ 32) : 0 ≤ x ∧ x ≤ 360 := by
  obtain ⟨-, hdiv, hdiv'⟩ := haxis.off_eq
  have hd : (0 : ℚ) < div := by exact_mod_cast (by omega : 0 < div)
  have hd' : (div : ℚ) ≤ 90 := by exact_mod_cast hdiv'
  rw [div_le_iff₀ hd] at hhigh
  rw [le_div_iff₀ hd] at hlow
  constructor <;> linarith

/-- In the nominal domain the operations of `quant1` move the exact quotient by less than `2^-19`: the sum by at most
`2^-45` degrees and the quotient by at most `2^-21` (R109). -/
theorem abs_exactQuotient_sub_lt (haxis : IsAxis off div) {t v : ℤ} (hsum : quantSum b off = some t)
    (hv : roundNearest (t * 2 ^ 30) div = some v) (hexact : 0 ≤ exactQuotient b off div)
    (hexact' : exactQuotient b off div ≤ 2 ^ 32) (hquot : 0 ≤ ratOf t * 2 ^ 30 / div)
    (hquot' : ratOf t * 2 ^ 30 / div ≤ 2 ^ 32) : |exactQuotient b off div - ratOf v| < 1 / 2 ^ 19 := by
  obtain ⟨-, hdiv, -⟩ := haxis.off_eq
  have hpos : 0 < div := by omega
  have hd : (45 : ℚ) ≤ div := by exact_mod_cast hdiv
  obtain ⟨hq, hq'⟩ := mem_Icc_of_quotient_mem_Icc haxis hexact hexact'
  have herr := abs_sub_ratOf_le_of_roundNearest one_pos hsum (e := 9)
  have herr' := abs_sub_ratOf_le_of_roundNearest hpos hv (e := 33)
  rw [ratOf_sum, abs_of_nonneg hq] at herr
  rw [ratOf_mul_two_pow, abs_of_nonneg hquot] at herr'
  have hshift : |exactQuotient b off div - ratOf t * 2 ^ 30 / div| ≤ 2 ^ 9 / 2 ^ 54 * 2 ^ 30 / 45 :=
    calc |exactQuotient b off div - ratOf t * 2 ^ 30 / div|
        = |coord b + off - ratOf t| * 2 ^ 30 / div := by
          rw [exactQuotient, ← sub_div, ← sub_mul, abs_div, abs_mul, Nat.abs_cast,
            abs_of_pos (by positivity : (0 : ℚ) < 2 ^ 30)]
      _ ≤ 2 ^ 9 / 2 ^ 54 * 2 ^ 30 / 45 := by gcongr; exact herr (by linarith)
  calc |exactQuotient b off div - ratOf v|
      ≤ |exactQuotient b off div - ratOf t * 2 ^ 30 / div| + |ratOf t * 2 ^ 30 / div - ratOf v| := abs_sub_le _ _ _
    _ ≤ 2 ^ 9 / 2 ^ 54 * 2 ^ 30 / 45 + 2 ^ 33 / 2 ^ 54 := add_le_add hshift (herr' (by linarith))
    _ < 1 / 2 ^ 19 := by norm_num

/-- In the nominal domain the rounded quotient is between the dyadic bounds of the exact one, and within `2^-19` of it
(R109). -/
theorem quantInt_nominal (haxis : IsAxis off div) (hb : isFinite b = true) {lo hi j : ℕ} (hlo : lo < 2 ^ 34)
    (hhi : hi ≤ 2 ^ (32 + j)) (hj : j ≤ 1) (hlow : (lo : ℚ) / 2 ^ j ≤ exactQuotient b off div)
    (hhigh : exactQuotient b off div ≤ hi / 2 ^ j) :
    ∃ v : ℚ, quantInt b off div = some (rhaz v) ∧ (lo : ℚ) / 2 ^ j ≤ v ∧ v ≤ hi / 2 ^ j ∧
      |exactQuotient b off div - v| < 1 / 2 ^ 19 := by
  obtain ⟨hoff, hdiv, hdiv'⟩ := haxis.off_eq
  have hpos : 0 < div := by omega
  have hhi' : hi < 2 ^ 34 := hhi.trans_lt (Nat.pow_lt_pow_right one_lt_two (by omega))
  have hbottom : (0 : ℚ) ≤ lo / 2 ^ j := by positivity
  have htop : (hi : ℚ) / 2 ^ j ≤ 2 ^ 32 := by
    rw [div_le_iff₀ (by positivity), ← pow_add]; exact_mod_cast hhi
  obtain ⟨t, hsum⟩ := exists_quantSum (off := off) hb (by omega)
  obtain ⟨htLow, htHigh⟩ : (lo : ℚ) / 2 ^ j ≤ ratOf t * 2 ^ 30 / div ∧ ratOf t * 2 ^ 30 / div ≤ hi / 2 ^ j := by
    rw [le_quotient_iff hpos, quotient_le_iff hpos, ← Nat.cast_mul, ← Nat.cast_mul]
    refine (roundsTo_of_quantSum hsum).mem_Icc one_pos (by nlinarith) (by nlinarith) (by omega) ?_ ?_
    · rw [ratOf_sum, Nat.cast_mul, ← le_quotient_iff hpos]; exact hlow
    · rw [ratOf_sum, Nat.cast_mul, ← quotient_le_iff hpos]; exact hhigh
  have hsmall : t.natAbs < 2 ^ 994 * unitsPerOne := by
    obtain ⟨h0, h360⟩ := mem_Icc_of_quotient_mem_Icc haxis (hbottom.trans htLow) (htHigh.trans htop)
    rw [← not_le, ← two_pow_le_abs_ratOf_iff, not_le, abs_of_nonneg h0]
    exact (h360.trans_lt (by norm_num : (360 : ℚ) < 2 ^ 9)).trans_le (pow_le_pow_right₀ one_le_two (by decide))
  obtain ⟨v, hv, hint⟩ := quantInt_of_small_sum hb hpos hsum hsmall
  rw [← ratOf_mul_two_pow] at htLow htHigh
  obtain ⟨hvLow, hvHigh⟩ :=
    (roundsTo_of_roundNearest hpos hv).mem_Icc hpos (by omega) (by omega) (by omega) htLow htHigh
  rw [ratOf_mul_two_pow] at htLow htHigh
  exact ⟨ratOf v, hint, hvLow, hvHigh, abs_exactQuotient_sub_lt haxis hsum hv (hbottom.trans hlow) (hhigh.trans htop)
    (hbottom.trans htLow) (htHigh.trans htop)⟩

/-- The nominal domain is where the exact quotient is in `0..2^32`. -/
theorem exactQuotient_mem_Icc (haxis : IsAxis off div) (hcoord : |coord b| ≤ off) :
    0 ≤ exactQuotient b off div ∧ exactQuotient b off div ≤ 2 ^ 32 := by
  obtain ⟨hoff, hdiv, -⟩ := haxis.off_eq
  have hd : (0 : ℚ) < div := by exact_mod_cast (by omega : 0 < div)
  have hoff' : (off : ℚ) = 2 * div := by exact_mod_cast hoff
  obtain ⟨hlow, hhigh⟩ := abs_le.1 hcoord
  rw [exactQuotient, le_div_iff₀ hd, div_le_iff₀ hd]
  constructor <;> linarith

/-- The quotient that `quant1` rounds, in the nominal domain. -/
theorem exists_quotient (haxis : IsAxis off div) (hb : isFinite b = true) (hcoord : |coord b| ≤ off) :
    ∃ v : ℚ, quantInt b off div = some (rhaz v) ∧ 0 ≤ v ∧ v ≤ 2 ^ 32 ∧ |exactQuotient b off div - v| < 1 / 2 ^ 19 := by
  obtain ⟨hlow, hhigh⟩ := exactQuotient_mem_Icc haxis hcoord
  obtain ⟨v, hint, hv, hv', hnear⟩ := quantInt_nominal haxis hb (lo := 0) (hi := 2 ^ 32) (j := 0) (by decide) le_rfl
    (by decide) (by rw [pow_zero, div_one]; exact_mod_cast hlow) (by rw [pow_zero, div_one]; exact_mod_cast hhigh)
  rw [pow_zero, div_one] at hv hv'
  exact ⟨v, hint, by exact_mod_cast hv, by exact_mod_cast hv', hnear⟩

/-- In the nominal domain the integer of `quant1` is in `0..2^32` and near the exact quotient (R109). -/
theorem exists_quantInt (haxis : IsAxis off div) (hb : isFinite b = true) (hcoord : |coord b| ≤ off) :
    ∃ r, quantInt b off div = some r ∧ 0 ≤ r ∧ r ≤ 2 ^ 32 ∧
      |(r : ℚ) - exactQuotient b off div| < 1 / 2 + 1 / 2 ^ 19 := by
  obtain ⟨v, hint, hv, hv', hnear⟩ := exists_quotient haxis hb hcoord
  obtain ⟨hr, hr'⟩ := rhaz_mem_Icc (n := 2 ^ 32) hv (by push_cast; exact hv')
  refine ⟨rhaz v, hint, hr, hr', (abs_sub_le _ v _).trans_lt (add_lt_add_of_le_of_lt (abs_rhaz_sub_le v) ?_)⟩
  rwa [abs_sub_comm]

end nominal

/-- Settles O19: the rounded quotient is within `2^-19` of the exact one. -/
theorem quantizerAccuracy : Obligations.QuantizerAccuracy := by
  intro b off div hb haxis hcoord _
  obtain ⟨r, hint, hr, hr', herr⟩ := exists_quantInt haxis hb hcoord
  obtain ⟨v, hint', hv, -, hnear⟩ := exists_quotient haxis hb hcoord
  obtain rfl : r = rhaz v := Option.some.inj (hint.symm.trans hint')
  have hexact := (exactQuotient_mem_Icc haxis hcoord).1
  rw [roundHalfAway_num_den]
  exact ⟨rhaz v, hint, hr, hr', herr, abs_rhaz_sub_rhaz_le hv hexact (hnear.trans (by norm_num)),
    rhaz_eq_rhaz_of_far_from_half hv hexact hnear⟩

/-- An exact quotient within one half of `2^32` is stored as 0. -/
theorem quant1_of_edge {b : Pattern} {off div : ℕ} (haxis : IsAxis off div) (hb : isFinite b = true)
    (hlow : (off : ℚ) - div / 2 ^ 31 ≤ coord b) (hhigh : coord b ≤ off) : quant1 b off div = some 0 := by
  obtain ⟨hoff, hdiv, -⟩ := haxis.off_eq
  have hd : (0 : ℚ) < div := by exact_mod_cast (by omega : 0 < div)
  have hoff' : (off : ℚ) = 2 * div := by exact_mod_cast hoff
  obtain ⟨v, hint, hv, hv', -⟩ := quantInt_nominal haxis hb (lo := 2 ^ 33 - 1) (hi := 2 ^ 33) (j := 1) (by decide)
    le_rfl le_rfl (by rw [exactQuotient, le_div_iff₀ hd]; norm_num; linarith)
    (by rw [exactQuotient, div_le_iff₀ hd]; norm_num; linarith)
  norm_num at hv hv'
  have hround : rhaz v = 2 ^ 32 := by
    rw [rhaz_of_nonneg (by linarith), Int.floor_eq_iff]
    push_cast
    constructor <;> linarith
  rw [quant1, hint, hround]
  rfl

/-- Settles O18: between these bounds the exact quotient is within one half of `2^32`. -/
theorem eastAndNorthEdgesWrap : Obligations.EastAndNorthEdgesWrap := by
  intro b hb
  refine ⟨fun hlow hhigh => ?_, fun hlow hhigh => ?_⟩
  · exact quant1_of_edge (.inl ⟨rfl, rfl⟩) hb (by exact_mod_cast hlow) (by exact_mod_cast hhigh)
  · exact quant1_of_edge (.inr ⟨rfl, rfl⟩) hb (by exact_mod_cast hlow) (by exact_mod_cast hhigh)

end Sys2Proof.Machine
end

section
/-! `DQN` (41_quantizer.md R110, R111): its rationals are binary64 values. -/

namespace Sys2Proof.Machine

section dequant
variable {n off div : ℕ}

/-- A whole number of units with at most 53 bits of significand. -/
theorem binary64_mul_pow {d k : ℕ} {w : ℤ} (hd : d ≤ 90) (hw : w.natAbs ≤ 2 ^ 46) (hk : k ≤ 2045) :
    Binary64 (d * 2 ^ k * w) := by
  refine ⟨d * w.natAbs, k, ?_, hk, ?_⟩
  · calc d * w.natAbs ≤ 90 * 2 ^ 46 := Nat.mul_le_mul hd hw
      _ < 2 ^ 53 := by decide
  · rw [Int.natAbs_mul, Int.natAbs_mul, Int.natAbs_natCast, Int.natAbs_pow, mul_right_comm]; rfl

/-- The rationals of `DQN` are binary64 values, whatever the registers hold (R111). -/
theorem binary64_dequant (v : Grid) (hoff : off = 2 * div) (hdiv : div ≤ 90) (hn : n ≤ 15) :
    Binary64 (dequant v n off div) := by
  have hv := v.isLt
  have hU : (off : ℤ) * unitsPerOne = div * 2 ^ 1075 := by
    rw [hoff, unitsPerOne_eq, Nat.cast_mul, Nat.cast_pow, Nat.cast_ofNat, pow_succ' 2 1074, mul_assoc, mul_left_comm]
  obtain rfl | hpos := Nat.eq_zero_or_pos n
  · have hfactor : dequant v 0 off div = div * 2 ^ 1075 * (2 * v.toNat - 1) := by
      rw [dequant, hU, Nat.mul_zero, Nat.sub_zero, pow_succ' 2 1075]
      generalize (2 : ℤ) ^ 1075 = p
      ring
    rw [hfactor]
    exact binary64_mul_pow hdiv (by omega) (by decide)
  · have hpow : (2 : ℤ) ^ 1075 = 2 ^ (1076 - 3 * n) * 2 ^ (3 * n - 1) := by rw [← pow_add]; congr 1; omega
    have hfactor : dequant v n off div = div * 2 ^ (1076 - 3 * n) * (v.toNat - 2 ^ (3 * n - 1)) := by
      rw [dequant, hU, hpow]; ring
    have hlow : (0 : ℤ) < 2 ^ (3 * n - 1) := by positivity
    have hhigh : (2 : ℤ) ^ (3 * n - 1) ≤ 2 ^ 44 := pow_le_pow_right₀ one_le_two (by omega)
    rw [hfactor]
    exact binary64_mul_pow hdiv (by omega) (by omega)

/-- The coordinate that `DQN` gives (R110). -/
theorem coord_patternOf_dequant (v : Grid) (hoff : off = 2 * div) (hdiv : div ≤ 90) (hn : n ≤ 15) :
    coord (patternOf (dequant v n off div)) = v.toNat * (2 : ℚ) ^ (2 - 3 * (n : ℤ)) * div - off := by
  have hexp : (2 : ℚ) ^ (2 - 3 * (n : ℤ)) = 2 ^ (1076 - 3 * n) / unitsPerOne := by
    rw [unitsPerOne_eq, Nat.cast_pow, Nat.cast_ofNat, ← zpow_natCast, ← zpow_natCast, ← zpow_sub₀ two_ne_zero]
    congr 1
    omega
  have hU := unitsPerOne_cast_pos.ne'
  rw [coord, scaledVal_patternOf (binary64_dequant v hoff hdiv hn), hexp, ratOf, dequant]
  push_cast
  field_simp

/-- A coordinate of value 0 is stored as positive zero (R110). -/
theorem patternOf_eq_zero_of_coord {w : ℤ} (hw : Binary64 w) (h : coord (patternOf w) = 0) : patternOf w = 0 := by
  rw [coord, scaledVal_patternOf hw, ratOf, div_eq_zero_iff, or_iff_left unitsPerOne_cast_pos.ne',
    Int.cast_eq_zero] at h
  rw [h]; rfl

end dequant

theorem execDqn_running {s : State} (he : s.err = 0) :
    execDqn s = .next (s.withCoord (patternOf (dequant s.x s.i.toNat Config.lonOffset Config.lonDivisor))
      (patternOf (dequant s.y s.i.toNat Config.latOffset Config.latDivisor))) :=
  whenRunning_running he _

/-- Settles O20: the rationals are binary64 values, and `patternOf` gives the pattern of each of these. -/
theorem dequantizeCommandIsExact : Obligations.DequantizeCommandIsExact := by
  refine ⟨rfl, fun s he => ⟨_, execDqn_running he, rfl, ?_⟩⟩
  have hi : s.i.toNat ≤ 15 := by omega
  have hlon := binary64_dequant s.x (off := 180) (div := 90) rfl le_rfl hi
  have hlat := binary64_dequant s.y (off := 90) (div := 45) rfl (by decide) hi
  refine ⟨isFinite_patternOf hlon, ?_, isFinite_patternOf hlat, ?_, patternOf_eq_zero_of_coord hlon,
    patternOf_eq_zero_of_coord hlat⟩
  · exact_mod_cast coord_patternOf_dequant s.x (off := 180) (div := 90) rfl le_rfl hi
  · exact_mod_cast coord_patternOf_dequant s.y (off := 90) (div := 45) rfl (by decide) hi

end Sys2Proof.Machine
end

section
/-! Where `ENC` is total (44_encoder.md R174): up to the largest sum that `RN` keeps below `2^994` (log entry 7). -/

namespace Sys2Proof.Machine

/-- The largest binary64 value below `2^994`, which is `2^994 - 2^941`, in units. -/
def largestSum : ℕ := (2 ^ 53 - 1) * 2 ^ 2015

theorem binary64_largestSum : Binary64 largestSum := ⟨2 ^ 53 - 1, 2015, by decide, by decide, rfl⟩

theorem ratOf_largestSum : ratOf largestSum = 2 ^ 994 - 2 ^ 941 := by
  rw [ratOf, div_eq_iff unitsPerOne_cast_pos.ne', unitsPerOne_eq]; decide +kernel

theorem largestSum_lt : largestSum < 2 ^ 994 * unitsPerOne := by
  rw [unitsPerOne_eq]; decide +kernel

/-- Rounding does not pass that value. -/
theorem lt_of_abs_sum_le {b : Pattern} {off : ℕ} {t : ℤ} (hsum : quantSum b off = some t)
    (hbound : |coord b + off| ≤ 2 ^ 994 - 2 ^ 941) : t.natAbs < 2 ^ 994 * unitsPerOne := by
  have hround := roundsTo_of_quantSum hsum
  obtain ⟨hlow, hhigh⟩ := abs_le.1 hbound
  have hle : t ≤ largestSum := by
    refine hround.le one_pos binary64_largestSum ((ratOf_div_le_iff one_pos).1 ?_)
    rwa [ratOf_sum, ratOf_largestSum]
  have hge : -(largestSum : ℤ) ≤ t := by
    refine hround.ge one_pos binary64_largestSum.neg ((ratOf_le_div_iff one_pos).1 ?_)
    rwa [ratOf_sum, ratOf_neg, ratOf_largestSum]
  exact (show t.natAbs ≤ largestSum by omega).trans_lt largestSum_lt

/-- A finite coordinate whose exact sum is at most the largest binary64 value below `2^994` is not rejected. -/
theorem not_coordRejected_of_abs_sum_le {b : Pattern} {off : ℕ} (hb : isFinite b = true)
    (hbound : |coord b + off| ≤ 2 ^ 994 - 2 ^ 941) : ¬ coordRejected b off := by
  rintro (hfin | ⟨t, hsum, hlarge⟩)
  · exact Bool.noConfusion (hb.symm.trans hfin)
  · exact (lt_of_abs_sum_le hsum hbound).not_ge hlarge

/-- Settles O41: neither coordinate is rejected, and on the legal domain the loops of `ENC` raise no fault. -/
theorem encodeTotalBelowTheBound : Obligations.EncodeTotalBelowTheBound := by
  intro s he hlon hlat hlonBound hlatBound hz hz'
  have hlegal : zoomLegal (zoomLevel s) = true := by simp [zoomLegal, zoomLevel, hz, hz']
  have hx := mt (quantLon_eq_none_iff s).1 (not_coordRejected_of_abs_sum_le hlon (by exact_mod_cast hlonBound))
  have hy := mt (quantLat_eq_none_iff s).1 (not_coordRejected_of_abs_sum_le hlat (by exact_mod_cast hlatBound))
  obtain ⟨qx, hx⟩ := Option.ne_none_iff_exists'.1 hx
  obtain ⟨qy, hy⟩ := Option.ne_none_iff_exists'.1 hy
  obtain ⟨t, u, hrun, ht, hu⟩ := exec_enc_appended he hx hy hlegal
  exact ⟨u, hrun, hu.err.trans (ht.err.trans he)⟩

/-- `ENC` with a rejected coordinate ends at its `QNT` (R227). -/
theorem exec_enc_of_rejected {s : State} (he : s.err = 0) (h : coordRejected s.lon 180 ∨ coordRejected s.lat 90) :
    exec .enc s = .next (s.withErr (FaultCode.code .nonFinite)) := by
  rw [← quantLon_eq_none_iff, ← quantLat_eq_none_iff] at h
  show execEnc s = _
  rw [execEnc, whenRunning_running he, execQnt_of_not_quantized he h, andThen_of_faulted]
  exact FaultCode.code_ne_zero .nonFinite

/-- The state with longitude `-2^994` and every other bit of CORE zero. -/
def farWest : State := { State.reset with lon := 0xFE10000000000000 }

theorem coordRejected_farWest : coordRejected farWest.lon 180 := by
  rw [coordRejected_iff]; decide +kernel

/-- Refutes O42: at `LON = -2^994` the sum rounds to `-2^994`, and `ENC` raises `E_NONFINITE`. -/
theorem not_encodeTotalAsWorded : ¬ Obligations.EncodeTotalAsWorded := by
  intro h
  obtain ⟨t, hrun, ht⟩ := h farWest (by decide) (by decide) (by decide +kernel) (by decide +kernel)
    (by decide) (by decide) rfl
  rw [exec_enc_of_rejected rfl (.inl coordRejected_farWest)] at hrun
  obtain rfl := Host.Outcome.next.inj hrun
  exact absurd ht (FaultCode.code_ne_zero .nonFinite)

end Sys2Proof.Machine
end

section
/-! `DEC` in closed form (45_decoder.md R190 to R199): the loop folds the digit part in, one octal digit of each
coordinate per character. -/

namespace Sys2Proof.Machine

/-! ### Sums in base 8 -/

/-- The number whose `n` octal digits are `g 0`, …, `g (n-1)`, the first the most significant (R199). -/
def octal (g : ℕ → ℕ) (n : ℕ) : ℕ := ∑ j ∈ Finset.range n, g j * 8 ^ (n - 1 - j)

theorem octal_succ (g : ℕ → ℕ) (n : ℕ) : octal g (n + 1) = 8 * octal g n + g n := by
  rw [octal, Finset.sum_range_succ, octal, Finset.mul_sum, Nat.add_sub_cancel, Nat.sub_self, pow_zero, mul_one]
  congr 1
  refine Finset.sum_congr rfl fun j hj => ?_
  have hj : j < n := Finset.mem_range.1 hj
  have hexp : n - j = n - 1 - j + 1 := by omega
  rw [hexp, pow_succ', mul_left_comm]

theorem octal_lt {g : ℕ → ℕ} (hg : ∀ j, g j < 8) (n : ℕ) : octal g n < 8 ^ n := by
  induction n with
  | zero => exact one_pos
  | succ n ih =>
    have := hg n
    rw [octal_succ, pow_succ]
    omega

/-! ### One digit folded in -/

/-- Below `2^42` folding loses no bit (R191). -/
theorem fold_toNat {a : Grid} (g : Group) (ha : a.toNat < 2 ^ 42) : (fold a g).toNat = 8 * a.toNat + g.toNat := by
  have hg : g.toNat < 2 ^ 3 := g.isLt
  have hshift : (a <<< 3).toNat = a.toNat <<< 3 := by
    rw [BitVec.toNat_shiftLeft, Nat.shiftLeft_eq, Nat.mod_eq_of_lt (by omega)]
  have hgroup : (g.setWidth 45).toNat = g.toNat := by
    rw [BitVec.toNat_setWidth, Nat.mod_eq_of_lt (by omega)]
  rw [fold, BitVec.toNat_or, hshift, hgroup, ← Nat.shiftLeft_add_eq_or_of_lt hg, Nat.shiftLeft_eq, mul_comm]

theorem lonGroup_of_charDigit {c : Byte} {d : Digit} (h : charDigit c = some d) :
    lonGroup c = (deinterleave6 d).1.toNat := by
  rw [lonGroup, h]; rfl

theorem latGroup_of_charDigit {c : Byte} {d : Digit} (h : charDigit c = some d) :
    latGroup c = (deinterleave6 d).2.toNat := by
  rw [latGroup, h]; rfl

theorem lonGroup_lt (c : Byte) : lonGroup c < 8 := by
  rw [lonGroup]
  cases charDigit c with
  | none => decide
  | some d => exact (deinterleave6 d).1.isLt

theorem latGroup_lt (c : Byte) : latGroup c < 8 := by
  rw [latGroup]
  cases charDigit c with
  | none => decide
  | some d => exact (deinterleave6 d).2.isLt

/-- A signed byte added without overflow. -/
theorem toInt_add_of_mem {z k : BitVec 8} (hlow : -128 ≤ z.toInt + k.toInt) (hhigh : z.toInt + k.toInt < 128) :
    (z + k).toInt = z.toInt + k.toInt := by
  rw [BitVec.toInt_add, Int.bmod_def]
  omega

/-! ### The digit part -/

/-- `t` is what `DIN` leaves of `s` with the first `n` characters of the string folded in. -/
structure Accumulated (s : State) (n : ℕ) (t : State) : Prop where
  frame : t = { s with x := t.x, y := t.y, zoom := t.zoom, i := t.i, stop := false }
  index : t.i.toNat = n
  x : t.x.toNat = octal (fun j => lonGroup (s.cbuf.cellAt j)) n
  y : t.y.toNat = octal (fun j => latGroup (s.cbuf.cellAt j)) n
  zoom : t.zoom.toInt = 3 * n - 8

section Accumulated
variable {s t : State} {n : ℕ}

theorem Accumulated.err (h : Accumulated s n t) : t.err = s.err := (congrArg State.err h.frame :)
theorem Accumulated.stop (h : Accumulated s n t) : t.stop = false := (congrArg State.stop h.frame :)
theorem Accumulated.clen (h : Accumulated s n t) : t.clen = s.clen := (congrArg State.clen h.frame :)
theorem Accumulated.cbuf (h : Accumulated s n t) : t.cbuf = s.cbuf := (congrArg State.cbuf h.frame :)

theorem execDin_running (he : s.err = 0) :
    execDin s = .next ((((s.withPoint 0 0).withZoom 0xF8).withIndex 0).withStop false) := whenRunning_running he _

/-- `DIN` starts with no character folded in (R190). -/
theorem exec_din_accumulated (he : s.err = 0) : ∃ t, exec .din s = .next t ∧ Accumulated s 0 t :=
  ⟨_, execDin_running he, rfl, rfl, rfl, rfl, rfl⟩

theorem Accumulated.hasCharAt_zero (h : Accumulated s n t) : hasCharAt t 0 = decide (n < s.clen.toNat) := by
  rw [hasCharAt, h.index, h.clen, Nat.add_zero]

/-- `ACC` folds the next character in if it is one of the alphabet (R192). -/
theorem Accumulated.exec_acc_digit (h : Accumulated s n t) (he : s.err = 0) (hn : n < s.clen.toNat)
    (hdigit : charDigit (s.cbuf.cellAt n) ≠ none) : ∃ u, exec .acc t = .next u ∧ Accumulated s (n + 1) u := by
  obtain ⟨d, hd⟩ := Option.ne_none_iff_exists'.1 hdigit
  have hlen := s.clen.isLt
  have hchar : hasCharAt t 0 = true := by rw [h.hasCharAt_zero]; exact decide_eq_true hn
  have hpow : (8 : ℕ) ^ n ≤ 2 ^ 42 := by
    calc (8 : ℕ) ^ n ≤ 8 ^ 14 := Nat.pow_le_pow_right (by decide) (by omega)
      _ = 2 ^ 42 := by decide
  have hx := (octal_lt (fun j => lonGroup_lt (s.cbuf.cellAt j)) n).trans_le hpow
  have hy := (octal_lt (fun j => latGroup_lt (s.cbuf.cellAt j)) n).trans_le hpow
  rw [← h.x] at hx
  rw [← h.y] at hy
  refine ⟨foldDigit d t, ?_, ?_⟩
  · show execAcc t = _
    rw [execAcc, whenRunning_running (h.err.trans he), h.stop, hchar, if_neg (by decide),
      memRead_index_of_hasCharAt hchar, h.cbuf, h.index, hd]
  · refine ⟨by rw [foldDigit, h.frame]; rfl, ?_, ?_, ?_, ?_⟩
    · have := h.index
      rw [foldDigit_i]; bv_omega
    · show (fold t.x _).toNat = _
      rw [fold_toNat _ hx, octal_succ, h.x, lonGroup_of_charDigit hd]
    · show (fold t.y _).toNat = _
      rw [fold_toNat _ hy, octal_succ, h.y, latGroup_of_charDigit hd]
    · have hthree : (3 : BitVec 8).toInt = 3 := rfl
      have hzoom := h.zoom
      show (t.zoom + 3).toInt = _
      rw [toInt_add_of_mem (by omega) (by omega), hzoom, hthree]
      push_cast; ring

/-- `ACC` stops where the digit part ends (R192). -/
theorem Accumulated.exec_acc_end (h : Accumulated s n t) (he : s.err = 0)
    (hend : n = s.clen.toNat ∨ charDigit (s.cbuf.cellAt n) = none) : exec .acc t = .next (t.withStop true) := by
  show execAcc t = _
  rw [execAcc, whenRunning_running (h.err.trans he)]
  by_cases hn : n < s.clen.toNat
  · have hchar : hasCharAt t 0 = true := by rw [h.hasCharAt_zero]; exact decide_eq_true hn
    have hnone := hend.resolve_left hn.ne
    rw [h.stop, hchar, if_neg (by decide), memRead_index_of_hasCharAt hchar, h.cbuf, h.index, hnone]
  · have hchar : hasCharAt t 0 = false := by rw [h.hasCharAt_zero]; exact decide_eq_false hn
    rw [h.stop, hchar, if_pos (by decide)]

/-- As many `ACC` as the string starts with characters of the alphabet fold these in. -/
theorem Accumulated.issue_accs {m : ℕ} (h : Accumulated s 0 t) (he : s.err = 0) (hm : m ≤ s.clen.toNat)
    (hdigits : ∀ j < m, charDigit (s.cbuf.cellAt j) ≠ none) :
    ∃ u, issue (List.replicate m .acc) t = .next u ∧ Accumulated s m u := by
  induction m with
  | zero => exact ⟨t, rfl, h⟩
  | succ m ih =>
    obtain ⟨u, hrun, hu⟩ := ih (by omega) fun j hj => hdigits j (by omega)
    obtain ⟨v, hlast, hv⟩ := hu.exec_acc_digit he (by omega) (hdigits m (by omega))
    refine ⟨v, ?_, hv⟩
    rw [List.replicate_succ', issue_append, hrun, andThen_of_running (hu.err.trans he), issue_singleton, hlast]

theorem issue_accs_stopped (h : notStopped t = false) (m : ℕ) : issue (List.replicate m .acc) t = .next t := by
  by_cases he : t.err = 0
  · induction m with
    | zero => rfl
    | succ m ih => rw [List.replicate_succ, issue_cons, exec_acc_stopped h, andThen_of_running he, ih]
  · exact issue_faulted he _

/-- The decode loop folds the digit part in and stops (R193, R198). -/
theorem Accumulated.decodeLoop (h : Accumulated s 0 t) (he : s.err = 0) (hn : digitPart s n) :
    ∃ u, repeatWhile 17 notStopped execAcc t = .next (u.withStop true) ∧ Accumulated s n u := by
  obtain ⟨hle, hdigits, hend⟩ := hn
  obtain ⟨u, hrun, hu⟩ := h.issue_accs he hle hdigits
  have hlen := s.clen.isLt
  have hsplit : (16 : ℕ) = n + (1 + (15 - n)) := by omega
  have heu := hu.err.trans he
  refine ⟨u, ?_, hu⟩
  rw [decodeLoop_eq_issue, hsplit, List.replicate_add, List.replicate_add, issue_append, hrun, andThen_of_running heu,
    issue_append, List.replicate_one, issue_singleton, hu.exec_acc_end he hend, andThen_of_running (by exact heu),
    issue_accs_stopped rfl]

end Accumulated

/-! ### The whole of `DEC` -/

/-- Zoom lowered by what the pads say (R195, R196). -/
def adjustedZoom (s : State) (n : ℕ) (z : BitVec 8) : BitVec 8 :=
  if padAt s n then (if padAt s (n + 1) then z - 2 + 1 else z - 2) else z

theorem adjustedZoom_toInt (s : State) (n : ℕ) {z : BitVec 8} (hz : -8 ≤ z.toInt) :
    (adjustedZoom s n z).toInt = z.toInt + padAdjust s n := by
  have hlow : (z - 2).toInt = z.toInt - 2 := by
    rw [BitVec.toInt_sub, Int.bmod_def]
    have := z.toInt_lt
    have htwo : (2 : BitVec 8).toInt = 2 := rfl
    omega
  have hone : (1 : BitVec 8).toInt = 1 := rfl
  have hz' := z.toInt_lt
  rw [adjustedZoom, padAdjust]
  split
  · split
    · rw [toInt_add_of_mem (by omega) (by omega), hlow, hone]; ring
    · rw [hlow]; ring
  · ring

/-- The pads are looked up in the string only. -/
theorem adjustedZoom_congr {s t : State} (hlen : t.clen = s.clen) (hbuf : t.cbuf = s.cbuf) :
    adjustedZoom t = adjustedZoom s := by
  have hpad : padAt t = padAt s := by funext k; rw [padAt, hlen, hbuf, padAt]
  funext n z
  rw [adjustedZoom, hpad, adjustedZoom]

theorem execZadj_adjusted {s : State} (he : s.err = 0) :
    execZadj s = .next (s.withZoom (adjustedZoom s s.i.toNat s.zoom)) := by
  rw [execZadj_running he, adjustedZoom]
  split
  · split <;> rfl
  · rfl

/-- `DEC` leaves the digit part folded in, `DQN` of that, and the zoom adjusted (R198). -/
theorem exec_dec_accumulated {s : State} {n : ℕ} (he : s.err = 0) (hn : digitPart s n) :
    ∃ t, Accumulated s n t ∧ exec .dec s = .next ((((t.withStop true).withCoord
      (patternOf (dequant t.x n 180 90)) (patternOf (dequant t.y n 90 45)))).withZoom (adjustedZoom s n t.zoom)) := by
  obtain ⟨r, hdin, hr⟩ := exec_din_accumulated he
  obtain ⟨t, hloop, ht⟩ := hr.decodeLoop he hn
  have het := ht.err.trans he
  refine ⟨t, ht, ?_⟩
  have hdin : execDin s = .next r := hdin
  show execDec s = _
  rw [execDec, whenRunning_running he, hdin, andThen_of_running (hr.err.trans he), hloop,
    andThen_of_running (by exact het), execDqn_running (by exact het), andThen_of_running (by exact het),
    execZadj_adjusted (by exact het), adjustedZoom_congr (by exact ht.clen) (by exact ht.cbuf)]
  simp only [State.withCoord_i, State.withStop_i, State.withStop_x, State.withStop_y, State.withCoord_zoom,
    State.withStop_zoom, ht.index]

/-- Settles O49: what the loop folded in, de-quantized, with its zoom adjusted. -/
theorem decodeClosedForm : Obligations.DecodeClosedForm := by
  refine ⟨rfl, fun s n he hn => ?_⟩
  obtain ⟨t, ht, hrun⟩ := exec_dec_accumulated he hn
  refine ⟨_, hrun, ?_, ht.index, ht.x, ht.y, ?_, ?_, rfl, rfl, ?_⟩
  · rw [ht.frame]; rfl
  · exact ht.x.trans_lt (octal_lt (fun j => lonGroup_lt _) n)
  · exact ht.y.trans_lt (octal_lt (fun j => latGroup_lt _) n)
  · have hzoom := ht.zoom
    rw [State.withZoom_zoom, adjustedZoom_toInt s n (by omega), hzoom]

end Sys2Proof.Machine
end

section
/-! `ENC` and then `DEC` (45_decoder.md R201 to R206): the decoded point is the corner of the cell that the quantized
input is in. -/

namespace Sys2Proof.Machine

/-! ### `ENC` without a fault -/

theorem zoomLegal_iff (z : ℤ) : zoomLegal z = true ↔ -8 ≤ z ∧ z ≤ 22 := by simp [zoomLegal]

/-- If `ENC` raised no fault, both coordinates have a grid value and the zoom is legal (R170, R229). -/
theorem quantized_of_exec_enc {s t : State} (he : s.err = 0) (h : exec .enc s = .next t) (ht : t.err = 0) :
    (∃ qx qy, quantLon s = some qx ∧ quantLat s = some qy) ∧ zoomLegal (zoomLevel s) = true := by
  have hrun : execEnc s = .next t := h
  rw [execEnc, whenRunning_running he] at hrun
  obtain ⟨s1, hqnt, ⟨he1, hrun⟩ | ⟨he1, rfl⟩⟩ := andThen_next hrun
  case inr => exact absurd ht he1
  obtain ⟨s2, hmrt, ⟨-, hrun⟩ | ⟨he2, rfl⟩⟩ := andThen_next hrun
  case inr => exact absurd ht he2
  obtain ⟨s3, hlen, ⟨he3, -⟩ | ⟨he3, rfl⟩⟩ := andThen_next hrun
  case inr => exact absurd ht he3
  have hzoom : zoomLevel s2 = zoomLevel s := by rw [zoomLevel, execMrt_frame hmrt, execQnt_frame hqnt, zoomLevel]
  constructor
  · obtain ⟨hne, -⟩ | ⟨-, qx, qy, hx, hy, -⟩ | ⟨-, -, rfl⟩ := execQnt_next hqnt
    · exact absurd he hne
    · exact ⟨qx, qy, hx, hy⟩
    · exact absurd he1 (FaultCode.code_ne_zero .nonFinite)
  · rw [← hzoom]
    obtain ⟨hne, rfl⟩ | ⟨-, hz, -⟩ | ⟨-, -, rfl⟩ := execLen_next hlen
    · exact absurd he3 hne
    · exact hz
    · exact absurd he3 (FaultCode.code_ne_zero .zoom)

/-! ### The digits of a point, read back -/

/-- A group that has the bits of a grid register from `k` up is that octal digit of it. -/
theorem group_toNat_of_bits {g : Group} {v : Grid} {k : ℕ} (h : ∀ j < 3, g.getLsbD j = v.getLsbD (k + j)) :
    g.toNat = v.toNat / 2 ^ k % 8 := by
  have hg : g = v.extractLsb' k 3 := by
    refine BitVec.eq_of_getLsbD_eq fun j hj => ?_
    rw [BitVec.getLsbD_extractLsb', decide_eq_true hj, Bool.true_and, h j hj]
  rw [hg, BitVec.extractLsb'_toNat, Nat.shiftRight_eq_div_pow]

theorem charDigit_encDigit : ∀ d : Digit, charDigit (encDigit d) = some d := by decide

theorem charDigit_padChar : charDigit Config.padChar = none := by decide

/-- The groups of digit `n` of a point are its octal digits (R79, R125). -/
theorem groups_of_digit (x y : Grid) {n : ℕ} (hn : n < 10) :
    let c := digitChar (interleave (hiOperand x) (hiOperand y)) (interleave (loOperand x) (loOperand y)) n
    lonGroup c = x.toNat / 2 ^ (29 - 3 * n) % 8 ∧ latGroup c = y.toNat / 2 ^ (29 - 3 * n) % 8 := by
  intro c
  have hbits := digitsAsBitsOfThePoint (State.reset.withPoint x y) _ rfl (execMrt_running rfl) n hn
  have hc : charDigit c = some _ := charDigit_encDigit _
  rw [lonGroup_of_charDigit hc, latGroup_of_charDigit hc]
  constructor
  · refine group_toNat_of_bits fun j hj => ?_
    rw [deinterleave6_fst_getLsbD, decide_eq_true hj, Bool.true_and]
    exact (hbits j hj).1
  · refine group_toNat_of_bits fun j hj => ?_
    rw [deinterleave6_snd_getLsbD, decide_eq_true hj, Bool.true_and]
    exact (hbits j hj).2

/-- The first `n` octal digits of a 32-bit number are the number truncated (R201). -/
theorem octal_eq_div {g : ℕ → ℕ} {x n : ℕ} (hx : x < 2 ^ 32) (hn : n ≤ 10)
    (hg : ∀ j < n, g j = x / 2 ^ (29 - 3 * j) % 8) : octal g n = x / 2 ^ (32 - 3 * n) := by
  induction n with
  | zero => exact (Nat.div_eq_of_lt hx).symm
  | succ n ih =>
    have hsplit : 2 ^ (32 - 3 * n) = 2 ^ (29 - 3 * n) * 2 ^ 3 := by rw [← pow_add]; congr 1; omega
    have hlast : 32 - 3 * (n + 1) = 29 - 3 * n := by omega
    rw [octal_succ, ih (by omega) fun j hj => hg j (by omega), hg n (by omega), hsplit, ← Nat.div_div_eq_div_mul, hlast]
    omega

/-! ### The decoded point -/

/-- The grid value with only its first `3n` bits kept (R201). -/
def truncated (q : BitVec 32) (n : ℕ) : ℕ := q.toNat / 2 ^ (32 - 3 * n) * 2 ^ (32 - 3 * n)

/-- The coordinate of the lower edge of the cell that `q` is in with `n` digits (R112). -/
def cellEdge (q : BitVec 32) (n off div : ℕ) : ℚ := truncated q n * (div / 2 ^ 30) - off

/-- `DQN` of the first `3n` bits of a grid value gives that edge. -/
theorem coord_of_truncated {v : Grid} {q : BitVec 32} {n off div : ℕ} (hoff : off = 2 * div) (hdiv : div ≤ 90)
    (hn : n ≤ 10) (hv : v.toNat = q.toNat / 2 ^ (32 - 3 * n)) :
    coord (patternOf (dequant v n off div)) = cellEdge q n off div := by
  have hexp : (2 : ℚ) ^ (2 - 3 * (n : ℤ)) = 2 ^ (32 - 3 * n) / 2 ^ 30 := by
    rw [← zpow_natCast, ← zpow_natCast, ← zpow_sub₀ two_ne_zero]
    congr 1
    omega
  rw [coord_patternOf_dequant v hoff hdiv (by omega), cellEdge, truncated, hexp, hv]
  push_cast
  ring

/-- The digit part of what `ENC` leaves when it raises no fault: its groups are the first octal digits of the point
(R79, R170). -/
theorem digits_of_exec_enc {s t : State} (he : s.err = 0) (hwf : s.cbuf.wf = true) (henc : exec .enc s = .next t)
    (ht : t.err = 0) :
    ∃ qx qy, quantLon s = some qx ∧ quantLat s = some qy ∧ t.nd.toNat = ndigits (zoomLevel s) ∧ t.nd.toNat ≤ 10 ∧
      digitPart t t.nd.toNat ∧ ∀ j < t.nd.toNat,
        lonGroup (t.cbuf.cellAt j) = qx.toNat / 2 ^ (29 - 3 * j) % 8 ∧
        latGroup (t.cbuf.cellAt j) = qy.toNat / 2 ^ (29 - 3 * j) % 8 := by
  obtain ⟨⟨qx, qy, hx, hy⟩, hlegal⟩ := quantized_of_exec_enc he henc ht
  obtain ⟨hz, hz'⟩ : -8 ≤ s.zoom.toInt ∧ s.zoom.toInt ≤ 22 := (zoomLegal_iff _).1 hlegal
  obtain ⟨t', henc', hframe, hnd, -, -, hlen, hdigits, hpads, -⟩ := encodeCommand.2 s qx qy he hwf hx hy hz hz'
  obtain rfl := Host.Outcome.next.inj (henc'.symm.trans henc)
  rw [← ndigits_eq_ceil hz, Nat.cast_inj] at hnd
  have hnd10 : t'.nd.toNat ≤ 10 := hnd.trans_le (ndigits_le_of_zoomLegal hlegal)
  have hc1 : t'.c1 = interleave (hiOperand (qx.setWidth 45)) (hiOperand (qy.setWidth 45)) := by
    rw [hiOperand_setWidth, hiOperand_setWidth, hframe]
  have hc2 : t'.c2 = interleave (loOperand (qx.setWidth 45)) (loOperand (qy.setWidth 45)) := by
    rw [loOperand_setWidth, loOperand_setWidth, hframe]
  have hcell : ∀ k < t'.nd.toNat, t'.cbuf.cellAt k = digitChar t'.c1 t'.c2 k := hdigits
  refine ⟨qx, qy, hx, hy, hnd, hnd10, ⟨by omega, fun j hj => ?_, ?_⟩, fun j hj => ?_⟩
  · rw [hcell j hj, digitChar, charDigit_encDigit]; exact Option.some_ne_none _
  · refine (Nat.eq_or_lt_of_le (show t'.nd.toNat ≤ t'.clen.toNat by omega)).imp_right fun hlt => ?_
    rw [hpads _ le_rfl hlt]; exact charDigit_padChar
  · have h := groups_of_digit (qx.setWidth 45) (qy.setWidth 45) (show j < 10 by omega)
    rwa [← hc1, ← hc2, ← hcell j hj, BitVec.toNat_setWidth_of_le (by decide),
      BitVec.toNat_setWidth_of_le (by decide)] at h

/-- What `ENC` without a fault and then `DEC` make of a point (R201, R204, R112). -/
theorem roundTrip {s t u : State} (he : s.err = 0) (hwf : s.cbuf.wf = true) (henc : exec .enc s = .next t)
    (ht : t.err = 0) (hdec : exec .dec t = .next u) :
    ∃ qx qy, quantLon s = some qx ∧ quantLat s = some qy ∧ t.nd.toNat = ndigits (zoomLevel s) ∧ t.nd.toNat ≤ 10 ∧
      coord u.lon = cellEdge qx t.nd.toNat 180 90 ∧ coord u.lat = cellEdge qy t.nd.toNat 90 45 := by
  obtain ⟨qx, qy, hx, hy, hnd, hnd10, hpart, hgroups⟩ := digits_of_exec_enc he hwf henc ht
  obtain ⟨u', hdec', -, -, hux, huy, -, -, hlon, hlat, -⟩ := decodeClosedForm.2 t _ ht hpart
  obtain rfl := Host.Outcome.next.inj (hdec'.symm.trans hdec)
  refine ⟨qx, qy, hx, hy, hnd, hnd10, ?_, ?_⟩
  · rw [hlon]
    exact coord_of_truncated rfl le_rfl hnd10 (hux.trans (octal_eq_div qx.isLt hnd10 fun j hj => (hgroups j hj).1))
  · rw [hlat]
    exact coord_of_truncated rfl (by decide) hnd10 (huy.trans (octal_eq_div qy.isLt hnd10 fun j hj => (hgroups j hj).2))

/-! ### The error of one coordinate -/

section error
variable {b : Pattern} {off div n : ℕ} {q : BitVec 32}

/-- The error in steps of the grid. -/
theorem coord_sub_cellEdge (hdiv : 0 < div) :
    coord b - cellEdge q n off div = (exactQuotient b off div - truncated q n) * (div / 2 ^ 30) := by
  have hd : (0 : ℚ) < div := by exact_mod_cast hdiv
  rw [cellEdge, exactQuotient]
  field_simp
  ring

theorem truncated_le (q : BitVec 32) (n : ℕ) : truncated q n ≤ q.toNat := Nat.div_mul_le_self _ _

theorem lt_truncated_add (q : BitVec 32) (n : ℕ) : q.toNat < truncated q n + 2 ^ (32 - 3 * n) := by
  rw [truncated]
  exact Nat.lt_div_mul_add (Nat.two_pow_pos _)

/-- One digit more keeps the cell's edge or moves it by at least 4 steps. -/
theorem truncated_succ (q : BitVec 32) (hn : n < 10) :
    truncated q n = truncated q (n + 1) ∨ truncated q n + 4 ≤ truncated q (n + 1) := by
  have hsplit : 32 - 3 * n = 32 - 3 * (n + 1) + 3 := by omega
  have hspacing : 4 ≤ 2 ^ (32 - 3 * (n + 1)) := by
    calc 4 = 2 ^ 2 := rfl
      _ ≤ _ := Nat.pow_le_pow_right (by decide) (by omega)
  rw [truncated, truncated, hsplit, pow_add]
  generalize 2 ^ (32 - 3 * (n + 1)) = p at hspacing
  rw [← Nat.div_div_eq_div_mul]
  generalize q.toNat / p = m
  have hcoarse : m / 2 ^ 3 * (p * 2 ^ 3) = m / 8 * 8 * p := by rw [mul_comm p, ← mul_assoc]; rfl
  rw [hcoarse]
  obtain heq | hlt := (Nat.div_mul_le_self m 8).eq_or_lt
  · exact .inl (by rw [heq])
  · refine .inr ?_
    calc m / 8 * 8 * p + 4 ≤ (m / 8 * 8 + 1) * p := by rw [add_mul, one_mul]; omega
      _ ≤ m * p := Nat.mul_le_mul_right p hlt

/-- The grid value of an integer that does not wrap. -/
theorem toNat_of_quant1 {r : ℤ} (hq : quant1 b off div = some q) (hint : quantInt b off div = some r) (h0 : 0 ≤ r)
    (hr : r < 2 ^ 32) : (q.toNat : ℤ) = r := by
  rw [quant1, hint, Option.map_some, Option.some_inj] at hq
  rw [← hq, BitVec.toNat_ofInt]
  omega

/-- The bounds of R205 for one coordinate, where the quantizer's integer does not wrap. -/
theorem error_bounds (haxis : IsAxis off div) (hb : isFinite b = true) (hcoord : |coord b| ≤ off) {r : ℤ}
    (hint : quantInt b off div = some r) (hr : r < 2 ^ 32) (hq : quant1 b off div = some q) :
    -(1 / 2 + 1 / 2 ^ 19) * (div / 2 ^ 30) ≤ coord b - cellEdge q n off div ∧
      coord b - cellEdge q n off div < 2 ^ (32 - 3 * n) * (div / 2 ^ 30) := by
  obtain ⟨r', hint', h0, -, hnear⟩ := exists_quantInt haxis hb hcoord
  obtain rfl := Option.some.inj (hint'.symm.trans hint)
  have hdiv : 0 < div := by have := haxis.off_eq; omega
  have hstep : (0 : ℚ) < div / 2 ^ 30 := div_pos (by exact_mod_cast hdiv) (by positivity)
  have hvalue : (q.toNat : ℚ) = r' := by exact_mod_cast toNat_of_quant1 hq hint h0 hr
  have hle : (truncated q n : ℚ) ≤ q.toNat := by exact_mod_cast truncated_le q n
  have hlt : (q.toNat : ℚ) + 1 ≤ truncated q n + 2 ^ (32 - 3 * n) := by exact_mod_cast lt_truncated_add q n
  obtain ⟨hlow, hhigh⟩ := abs_lt.1 hnear
  rw [coord_sub_cellEdge hdiv]
  constructor
  · refine mul_le_mul_of_nonneg_right ?_ hstep.le
    linarith
  · refine mul_lt_mul_of_pos_right ?_ hstep
    linarith

/-- One digit more never makes the error of a coordinate larger (R206). -/
theorem error_succ_le (haxis : IsAxis off div) (hb : isFinite b = true) (hcoord : |coord b| ≤ off) (hn : n < 10)
    (hq : quant1 b off div = some q) :
    |coord b - cellEdge q (n + 1) off div| ≤ |coord b - cellEdge q n off div| := by
  obtain ⟨r, hint, h0, hr, hnear⟩ := exists_quantInt haxis hb hcoord
  have hdiv : 0 < div := by have := haxis.off_eq; omega
  have hstep : (0 : ℚ) < div / 2 ^ 30 := div_pos (by exact_mod_cast hdiv) (by positivity)
  obtain heq | hgap := truncated_succ q hn
  · rw [cellEdge, cellEdge, heq]
  · have hqr : (q.toNat : ℤ) ≤ r := by
      obtain hlt | rfl := hr.lt_or_eq
      · exact (toNat_of_quant1 hq hint h0 hlt).le
      · have := q.isLt; omega
    have hgap : (truncated q n : ℚ) + 4 ≤ truncated q (n + 1) := by exact_mod_cast hgap
    have hle : (truncated q (n + 1) : ℚ) ≤ r := by exact_mod_cast (Int.ofNat_le.2 (truncated_le q (n + 1))).trans hqr
    obtain ⟨hlow, hhigh⟩ := abs_lt.1 hnear
    rw [coord_sub_cellEdge hdiv, coord_sub_cellEdge hdiv, abs_mul, abs_mul]
    refine mul_le_mul_of_nonneg_right ?_ (abs_nonneg _)
    rw [abs_of_nonneg (by linarith : 0 ≤ exactQuotient b off div - truncated q n), abs_le]
    constructor <;> linarith

end error

/-! ### The statements -/

/-- The width of a cell in degrees: one `8^n`-th of the whole range (R112). -/
theorem cell_width {n : ℕ} (hn : n ≤ 10) (div : ℚ) : 2 ^ (32 - 3 * n) * (div / 2 ^ 30) = 4 * div / 2 ^ (3 * n) := by
  have hsplit : (2 : ℚ) ^ 32 = 2 ^ (32 - 3 * n) * 2 ^ (3 * n) := by rw [← pow_add]; congr 1; omega
  rw [eq_div_iff (by positivity), mul_right_comm, ← hsplit]
  ring

/-- Settles O53: the decoded coordinate is the edge of the cell that the quantizer's integer is in. -/
theorem roundTripError : Obligations.RoundTripError := by
  intro s t u rx ry he hwf hlon hlat hlonNominal hlatNominal hrx hrx' hry hry' henc ht _ hdec
  obtain ⟨qx, qy, hx, hy, -, hnd, hulon, hulat⟩ := roundTrip he hwf henc ht hdec
  have hlonBounds := error_bounds (.inl ⟨rfl, rfl⟩) hlon (by exact_mod_cast hlonNominal) (n := t.nd.toNat) hrx hrx' hx
  have hlatBounds := error_bounds (.inr ⟨rfl, rfl⟩) hlat (by exact_mod_cast hlatNominal) (n := t.nd.toNat) hry hry' hy
  rw [← hulon, cell_width hnd] at hlonBounds
  rw [← hulat, cell_width hnd] at hlatBounds
  norm_num at hlonBounds hlatBounds ⊢
  exact ⟨hlonBounds.1, hlonBounds.2, hlatBounds.1, hlatBounds.2⟩

/-- One zoom level more asks for as many digits or for one more (R160). -/
theorem ndigits_succ (z : ℤ) : ndigits (z + 1) = ndigits z ∨ ndigits (z + 1) = ndigits z + 1 := by
  rw [ndigits, ndigits, Config.zoomBias]; omega

/-- Settles O55: one zoom level more asks for at most one digit more. -/
theorem monotonicPrecision : Obligations.MonotonicPrecision := by
  intro s s' t t' u u' he he' hwf hwf' hlon hlat hlonNominal hlatNominal hlonEq hlatEq hzoom henc ht henc' ht'
    hdec hdec'
  obtain ⟨qx, qy, hx, hy, hnd, -, hulon, hulat⟩ := roundTrip he hwf henc ht hdec
  obtain ⟨qx', qy', hx', hy', hnd', hnd10, hulon', hulat'⟩ := roundTrip he' hwf' henc' ht' hdec'
  rw [quantLon, hlonEq] at hx'
  rw [quantLat, hlatEq] at hy'
  obtain rfl := Option.some.inj (hx.symm.trans hx')
  obtain rfl := Option.some.inj (hy.symm.trans hy')
  rw [zoomLevel, hzoom] at hnd'
  rw [zoomLevel] at hnd
  rw [hulon, hulat, hulon', hulat']
  obtain hsame | hmore := ndigits_succ s.zoom.toInt
  · rw [hnd, hnd', hsame]
    exact ⟨le_rfl, le_rfl⟩
  · have hsucc : t'.nd.toNat = t.nd.toNat + 1 := by rw [hnd, hnd', hmore]
    rw [hsucc]
    exact ⟨error_succ_le (.inl ⟨rfl, rfl⟩) hlon (by exact_mod_cast hlonNominal) (by omega) hx,
      error_succ_le (.inr ⟨rfl, rfl⟩) hlat (by exact_mod_cast hlatNominal) (by omega) hy⟩

/-- The state with the longitude just below `180 - 90/2^31`, latitude 0 and zoom 0. -/
def belowEastEdge : State := { State.reset with lon := 0x40667FFFFFE97FFF }

theorem quantLon_belowEastEdge : quantLon belowEastEdge = some 0 := by decide +kernel

theorem quantLat_belowEastEdge : quantLat belowEastEdge = some 0x80000000 := by decide +kernel

/-- Refutes O54: this longitude quantizes to `2^32` and wraps, so that the point decodes to the west edge. -/
theorem not_roundTripErrorAsWorded : ¬ Obligations.RoundTripErrorAsWorded := by
  intro h
  obtain ⟨v, t, henc, hv, ht⟩ := exec_enc_appended (s := belowEastEdge) rfl quantLon_belowEastEdge
    quantLat_belowEastEdge (by decide)
  have het : t.err = 0 := ht.err.trans hv.err
  obtain ⟨u, hdec⟩ := completes_execDec t
  obtain ⟨qx, qy, hx, -, hnd, -, hulon, -⟩ := roundTrip rfl rfl henc het hdec
  obtain rfl := Option.some.inj (quantLon_belowEastEdge.symm.trans hx)
  have hnd : t.nd.toNat = 3 := hnd
  obtain ⟨-, hbound, -⟩ := h belowEastEdge t u rfl rfl (by decide) (by decide) (by decide +kernel) (by decide +kernel)
    (by decide +kernel) (by decide +kernel) henc het (by omega) hdec
  have hwest : cellEdge 0 3 180 90 = -180 := by norm_num [cellEdge, truncated]
  have hlon : 179 ≤ coord belowEastEdge.lon := by decide +kernel
  rw [hulon, hnd, hwest] at hbound
  norm_num at hbound
  linarith

end Sys2Proof.Machine
end

section
/-! The interleaver (42_interleaver.md): the shift-OR-mask sequence of `spread16`, the properties of `interleave`, and
the two tiers of `MRT` as one wide code. -/

namespace Sys2Proof.Machine

/-! ### The shift-OR-mask sequence -/

/-- The words between the turns of the shift-OR-mask sequence: the operand in runs of `n` bits, with `n` zero bits after
each. Its ends are the operand itself (`spaced_sixteen`) and `spread16` (`spaced_one`). -/
def spaced (n : Nat) (a : BitVec 16) : Tier :=
  BitVec.ofFnLE fun j => j.val / n % 2 == 0 && a.getLsbD (n * (j.val / n / 2) + j.val % n)

theorem spaced_getLsbD (n : Nat) (a : BitVec 16) {j : Nat} (hj : j < 32) :
    (spaced n a).getLsbD j = (j / n % 2 == 0 && a.getLsbD (n * (j / n / 2) + j % n)) := by
  rw [spaced, BitVec.getLsbD_ofFnLE, dif_pos hj]

theorem spaced_sixteen (a : BitVec 16) : spaced 16 a = a.setWidth 32 := by
  refine BitVec.eq_of_getLsbD_eq fun j hj => ?_
  rw [spaced_getLsbD 16 a hj, BitVec.getLsbD_setWidth, decide_eq_true hj, Bool.true_and]
  by_cases hlow : j < 16
  · have hrun : j / 16 = 0 := by omega
    have hbit : j % 16 = j := by omega
    simp [hrun, hbit]
  · have hrun : j / 16 = 1 := by omega
    simp [hrun, BitVec.getLsbD_of_ge a j (by omega)]

theorem spaced_one (a : BitVec 16) : spaced 1 a = spread16 a := by
  refine BitVec.eq_of_getLsbD_eq fun j hj => ?_
  rw [spaced_getLsbD 1 a hj, spread16_getLsbD, decide_eq_true hj]
  simp [Nat.mod_one]

section runs
variable {n q r : Nat}

/-- Place `r` of run `q`: the even runs hold the operand's runs in order, the odd ones 0. -/
theorem spaced_getLsbD_run (a : BitVec 16) (hr : r < n) (hlt : n * q + r < 32) :
    (spaced n a).getLsbD (n * q + r) = (q % 2 == 0 && a.getLsbD (n * (q / 2) + r)) := by
  have hrun : (n * q + r) / n = q := by
    rw [Nat.mul_add_div (by omega), Nat.div_eq_of_lt hr, Nat.add_zero]
  have hplace : (n * q + r) % n = r := by rw [Nat.mul_add_mod, Nat.mod_eq_of_lt hr]
  rw [spaced_getLsbD n a hlt, hrun, hplace]

/-- The same place where the runs are twice as long. -/
theorem spaced_double_getLsbD_run (a : BitVec 16) (hr : r < n) (hlt : n * q + r < 32) :
    (spaced (2 * n) a).getLsbD (n * q + r) =
      (q / 2 % 2 == 0 && a.getLsbD (n * (2 * (q / 2 / 2) + q % 2) + r)) := by
  have hplace : n * q + r = 2 * n * (q / 2) + (n * (q % 2) + r) := by
    calc n * q + r = n * (2 * (q / 2) + q % 2) + r := by rw [Nat.div_add_mod]
      _ = _ := by ring
  have hshort : n * (q % 2) + r < 2 * n := by
    obtain h | h := Nat.mod_two_eq_zero_or_one q <;> rw [h] <;> omega
  rw [hplace, spaced_getLsbD_run a hshort (hplace ▸ hlt)]
  congr 2
  ring

/-- A word shifted left by one run has 0 in its lowest run and run `q` in the place of run `q + 1`. -/
theorem shiftLeft_getLsbD_run (w : Tier) (hr : r < n) (hlt : n * q + r < 32) :
    (w <<< n).getLsbD (n * q + r) = (decide (0 < q) && w.getLsbD (n * (q - 1) + r)) := by
  rw [BitVec.getLsbD_shiftLeft, decide_eq_true hlt, Bool.true_and]
  cases q with
  | zero => simp [hr]
  | succ q =>
    have hsource : n * (q + 1) + r - n = n * q + r := by rw [Nat.mul_succ]; omega
    have hge : ¬ n * (q + 1) + r < n := by rw [Nat.mul_succ]; omega
    rw [hsource, decide_eq_false hge, decide_eq_true q.succ_pos, Nat.add_sub_cancel, Bool.not_false]

/-- One turn halves the runs. Of the new places that hold a bit, those in runs `0, 4, 8, ..` have it from the unshifted
word and those in runs `2, 6, 10, ..` from the shifted one; the mask clears the odd runs. -/
theorem swarStep_spaced (a : BitVec 16) {mask : Tier} (hn : 0 < n)
    (hmask : ∀ j < 32, mask.getLsbD j = (j / n % 2 == 0)) :
    swarStep (spaced (2 * n) a) n mask = spaced n a := by
  refine BitVec.eq_of_getLsbD_eq fun j hj => ?_
  rw [swarStep, BitVec.getLsbD_and, BitVec.getLsbD_or, hmask j hj]
  have hr : j % n < n := Nat.mod_lt j hn
  have hplace : n * (j / n) + j % n = j := Nat.div_add_mod j n
  generalize j / n = q at hplace ⊢
  generalize j % n = r at hr hplace
  subst hplace
  have hlt : n * (q - 1) + r < 32 := by
    have := Nat.mul_le_mul_left n (q.sub_le 1)
    omega
  rw [shiftLeft_getLsbD_run _ hr hj, spaced_getLsbD_run a hr hj, spaced_double_getLsbD_run a hr hj,
    spaced_double_getLsbD_run a hr hlt]
  obtain hcleared | hkept | hmoved : q % 2 = 1 ∨ q % 4 = 0 ∨ q % 4 = 2 := by omega
  · simp [hcleared]
  · have heven : q % 2 = 0 := by omega
    have hown : q / 2 % 2 = 0 := by omega
    have hindex : 2 * (q / 2 / 2) = q / 2 := by omega
    have hother : 0 < q → (q - 1) / 2 % 2 = 1 := by omega
    simp +contextual [heven, hown, hindex, hother]
  · have heven : q % 2 = 0 := by omega
    have hpos : 0 < q := by omega
    have hown : q / 2 % 2 = 1 := by omega
    have hother : (q - 1) / 2 % 2 = 0 := by omega
    have hindex : 2 * ((q - 1) / 2 / 2) + (q - 1) % 2 = q / 2 := by omega
    simp [heven, hpos, hown, hother, hindex]

end runs

/-- Settles O21: each of the four turns halves the runs, from the operand itself down to `spread16`. -/
theorem spreadMappingAndSequence : Obligations.SpreadMappingAndSequence := by
  refine fun a => ⟨fun k hk => ⟨?_, ?_⟩, ?_⟩
  · have heven : 2 * k % 2 = 0 := by omega
    have hhalf : 2 * k / 2 = k := by omega
    have hlt : 2 * k < 32 := by omega
    rw [spread16_getLsbD, heven, hhalf, decide_eq_true hlt]
    rfl
  · have hodd : (2 * k + 1) % 2 = 1 := by omega
    rw [spread16_getLsbD, hodd, Bool.and_assoc]
    exact Bool.and_false _
  · rw [spread16Swar, ← spaced_sixteen, swarStep_spaced (n := 8) a (by decide) (by decide),
      swarStep_spaced (n := 4) a (by decide) (by decide), swarStep_spaced (n := 2) a (by decide) (by decide),
      swarStep_spaced (n := 1) a (by decide) (by decide), spaced_one]

/-! ### Properties of `interleave` -/

/-- The odd bits of a code give back the first operand, the even bits the second. -/
theorem interleave_injective {a b a' b' : BitVec 16} (h : interleave a b = interleave a' b') : a = a' ∧ b = b' := by
  refine ⟨BitVec.eq_of_getLsbD_eq fun k hk => ?_, BitVec.eq_of_getLsbD_eq fun k hk => ?_⟩
  · rw [← interleave_getLsbD_odd a b hk, h, interleave_getLsbD_odd a' b' hk]
  · rw [← interleave_getLsbD_even a b hk, h, interleave_getLsbD_even a' b' hk]

theorem spread16_zero : spread16 0#16 = 0#32 :=
  BitVec.eq_of_getLsbD_eq fun j _ => by simp [spread16_getLsbD]

theorem interleave_zero_right (a : BitVec 16) : interleave a 0 = spread16 a <<< 1 := by
  simp [interleave, spread16_zero]

theorem interleave_zero_left (b : BitVec 16) : interleave 0 b = spread16 b := by
  simp [interleave, spread16_zero]

/-- The two terms of a code share no bit: one is 0 at the even places, the other at the odd ones. -/
theorem interleave_terms_disjoint (a b : BitVec 16) : interleave a 0 &&& interleave 0 b = 0 := by
  refine BitVec.eq_of_getLsbD_eq fun j hj => ?_
  rw [BitVec.getLsbD_and, interleave_getLsbD, interleave_getLsbD]
  obtain hpar | hpar := Nat.mod_two_eq_zero_or_one j <;> simp [hpar]

/-- Settles O23: injectivity and the two terms from the bits of `interleave`, and the bound by `interleave_toNat_lt`. -/
theorem interleaveProperties : Obligations.InterleaveProperties := by
  refine ⟨fun _ _ _ _ => interleave_injective, fun a b => ?_, fun _ _ _ => interleave_toNat_lt⟩
  refine ⟨?_, interleave_terms_disjoint a b, interleave_zero_right a, interleave_zero_left b⟩
  rw [interleave_zero_right, interleave_zero_left, interleave]

/-! ### The tiers of `MRT` -/

/-- Fifteen bits within bits 31..2 are cut from those. -/
theorem extractLsb'_of_middle (v : Grid) {i : Nat} (hi : i ≤ 15) :
    v.extractLsb' (2 + i) 15 = (v.extractLsb' 2 30).extractLsb' i 15 := by
  refine BitVec.eq_of_getLsbD_eq fun k hk => ?_
  have h30 : i + k < 30 := by omega
  rw [BitVec.getLsbD_extractLsb', BitVec.getLsbD_extractLsb', BitVec.getLsbD_extractLsb', decide_eq_true h30,
    Bool.true_and, Nat.add_assoc]

/-- The operands of both tiers depend on bits 31..2 only (R126). -/
theorem operands_congr {v v' : Grid} (h : v.extractLsb' 2 30 = v'.extractLsb' 2 30) :
    hiOperand v = hiOperand v' ∧ loOperand v = loOperand v' := by
  have hcut : ∀ i ≤ 15, v.extractLsb' (2 + i) 15 = v'.extractLsb' (2 + i) 15 := fun i hi => by
    rw [extractLsb'_of_middle v hi, h, extractLsb'_of_middle v' hi]
  exact ⟨congrArg (·.setWidth 16) (hcut 15 le_rfl), congrArg (·.setWidth 16) (hcut 0 (Nat.zero_le _))⟩

/-- Settles O25: what a running core does is `execMrt_running`, and the operands of both tiers are cut from bits
31..2. -/
theorem mortonCommand : Obligations.MortonCommand := by
  refine ⟨rfl, fun s he => ⟨_, execMrt_running he, rfl⟩, fun s s' t t' he he' hx hy h h' => ?_⟩
  obtain ⟨hc1, hc2⟩ := tiers_of_execMrt he h
  obtain ⟨hc1', hc2'⟩ := tiers_of_execMrt he' h'
  obtain ⟨hxhi, hxlo⟩ := operands_congr hx
  obtain ⟨hyhi, hylo⟩ := operands_congr hy
  rw [hc1, hc2, hc1', hc2', hxhi, hyhi, hxlo, hylo]
  exact ⟨rfl, rfl⟩

/-- The bits of two 30-bit tiers, the first above the second. -/
theorem testBit_tiers (c1 : Tier) {c2 : Tier} (hc2 : c2.toNat < 2 ^ 30) (j : Nat) :
    (c1.toNat * 2 ^ 30 + c2.toNat).testBit j = if j < 30 then c2.getLsbD j else c1.getLsbD (j - 30) := by
  rw [Nat.mul_comm, Nat.testBit_two_pow_mul_add _ hc2, BitVec.testBit_toNat, BitVec.testBit_toNat]

/-- Settles O26: bit pairs 0 to 14 are the second tier, of bits 16..2, and pairs 15 to 29 the first, of bits 31..17. -/
theorem tiersFormOneWideInterleave : Obligations.TiersFormOneWideInterleave := by
  intro s t he h k hk
  obtain ⟨hc1, hc2⟩ := tiers_of_execMrt he h
  have hlt : t.c2.toNat < 2 ^ 30 := by
    rw [hc2]
    exact interleave_toNat_lt (loOperand_toNat_lt _) (loOperand_toNat_lt _)
  rw [testBit_tiers _ hlt, testBit_tiers _ hlt, hc1, hc2]
  by_cases hlow : k < 15
  · have h16 : k < 16 := by omega
    rw [if_pos (by omega), if_pos (by omega), interleave_getLsbD_odd _ _ h16, interleave_getLsbD_even _ _ h16,
      loOperand_getLsbD _ hlow, loOperand_getLsbD _ hlow, Nat.add_comm 2 k]
    exact ⟨rfl, rfl⟩
  · obtain ⟨m, rfl⟩ : ∃ m, k = 15 + m := ⟨k - 15, by omega⟩
    have h16 : m < 16 := by omega
    have hodd : 2 * (15 + m) + 1 - 30 = 2 * m + 1 := by omega
    have heven : 2 * (15 + m) - 30 = 2 * m := by omega
    have hbit : 15 + m + 2 = 17 + m := by omega
    rw [if_neg (by omega), if_neg (by omega), hodd, heven, interleave_getLsbD_odd _ _ h16,
      interleave_getLsbD_even _ _ h16, hiOperand_getLsbD _ (by omega), hiOperand_getLsbD _ (by omega), hbit]
    exact ⟨rfl, rfl⟩

end Sys2Proof.Machine
end

section
/-! The alphabet codec (43_alphabet.md): its laws, and `DEC` on two strings that differ in the spelling of digit 63
only. -/

namespace Sys2Proof.Machine

/-! ### The laws of the codec -/

/-- Each range of `dec_char` is the same range of `enc_digit`, read backwards (R143). -/
theorem encDigit_of_decChar {c : Byte} {d : Digit} (h : decChar c = some d) : encDigit d = c := by
  refine BitVec.eq_of_toNat_eq ?_
  rw [encDigit_toNat]
  unfold decChar at h
  split_ifs at h with hupper hlower hdecimal hunderscore htilde <;> obtain rfl := Option.some.inj h
  · rw [BitVec.toNat_ofNat, if_pos (by omega)]; omega
  · rw [BitVec.toNat_ofNat, if_neg (by omega), if_pos (by omega)]; omega
  · rw [BitVec.toNat_ofNat, if_neg (by omega), if_neg (by omega), if_pos (by omega)]; omega
  · rw [hunderscore]; rfl
  · rw [htilde]; rfl

theorem normChar_of_ne_legacy {c : Byte} (hc : c ≠ Config.legacyChar) : normChar c = c := if_neg hc

/-- No digit is encoded as a byte that decodes to none. -/
theorem encDigit_ne_of_decChar_none {c : Byte} (hc : decChar c = none) (d : Digit) : encDigit d ≠ c := by
  rintro rfl
  exact absurd ((decChar_encDigit d).symm.trans hc) (Option.some_ne_none d)

/-- Settles O29: the pad and the legacy character are no digit's, since `dec_char` finds no digit for them. -/
theorem alphabetCodecLaws : Obligations.AlphabetCodecLaws :=
  ⟨decChar_encDigit, fun _ _ => encDigit_of_decChar, rfl, rfl, fun _ hc => congrArg decChar (normChar_of_ne_legacy hc),
    fun d => ⟨encDigit_ne_of_decChar_none rfl d, encDigit_ne_of_decChar_none rfl d⟩⟩

/-! ### What the decoder reads of a character -/

theorem lonGroup_congr {c c' : Byte} (h : charDigit c = charDigit c') : lonGroup c = lonGroup c' := by
  rw [lonGroup, h, lonGroup]

theorem latGroup_congr {c c' : Byte} (h : charDigit c = charDigit c') : latGroup c = latGroup c' := by
  rw [latGroup, h, latGroup]

/-- Only the pad itself is normalised to the pad. -/
theorem normChar_eq_padChar_iff (c : Byte) : normChar c = Config.padChar ↔ c = Config.padChar := by
  by_cases hc : c = Config.legacyChar
  · subst hc; decide
  · rw [normChar_of_ne_legacy hc]

/-! ### The digit part -/

/-- Every string has a digit part: it ends at the first byte that is no digit, or else at the end of the string. -/
theorem exists_digitPart (s : State) : ∃ n, digitPart s n := by
  have hend : ∃ n, n = s.clen.toNat ∨ charDigit (s.cbuf.cellAt n) = none := ⟨_, .inl rfl⟩
  exact ⟨Nat.find hend, Nat.find_min' hend (.inl rfl), fun j hj hnone => Nat.find_min hend hj (.inr hnone),
    Nat.find_spec hend⟩

/-- Strings of one length whose characters read as the same digits have the same digit part. -/
theorem digitPart_congr {s s' : State} {n : ℕ} (hlen : s.clen = s'.clen)
    (hdigit : ∀ k < s.clen.toNat, charDigit (s.cbuf.cellAt k) = charDigit (s'.cbuf.cellAt k)) (hn : digitPart s n) :
    digitPart s' n := by
  obtain ⟨hle, hdigits, hend⟩ := hn
  refine ⟨hlen ▸ hle, fun j hj => hdigit j (hj.trans_le hle) ▸ hdigits j hj, ?_⟩
  obtain hlt | heq := hle.lt_or_eq
  · exact .inr (hdigit n hlt ▸ hend.resolve_left hlt.ne)
  · exact .inl (hlen ▸ heq)

theorem octal_congr {g g' : ℕ → ℕ} {n : ℕ} (h : ∀ j < n, g j = g' j) : octal g n = octal g' n :=
  Finset.sum_congr rfl fun j hj => by rw [h j (Finset.mem_range.1 hj)]

/-- The same digits folded in give the same registers. -/
theorem Accumulated.registers_eq {s s' t t' : State} {n : ℕ} (h : Accumulated s n t) (h' : Accumulated s' n t')
    (hdigit : ∀ j < n, charDigit (s.cbuf.cellAt j) = charDigit (s'.cbuf.cellAt j)) :
    t.x = t'.x ∧ t.y = t'.y ∧ t.i = t'.i ∧ t.zoom = t'.zoom := by
  refine ⟨BitVec.eq_of_toNat_eq ?_, BitVec.eq_of_toNat_eq ?_, BitVec.eq_of_toNat_eq ?_, BitVec.eq_of_toInt_eq ?_⟩
  · rw [h.x, h'.x, octal_congr fun j hj => lonGroup_congr (hdigit j hj)]
  · rw [h.y, h'.y, octal_congr fun j hj => latGroup_congr (hdigit j hj)]
  · rw [h.index, h'.index]
  · rw [h.zoom, h'.zoom]

/-! ### `DEC` of two spellings of a string -/

section spellings
variable {s s' : State} (hlen : s.clen = s'.clen)
  (hnorm : ∀ k < s.clen.toNat, normChar (s.cbuf.cellAt k) = normChar (s'.cbuf.cellAt k))
include hlen hnorm

/-- Two spellings of a string have their pads at the same positions. -/
theorem padAt_eq_of_normChar_eq : padAt s = padAt s' := by
  funext k
  by_cases hk : k < s.clen.toNat
  · have hpad : s.cbuf.cellAt k = Config.padChar ↔ s'.cbuf.cellAt k = Config.padChar := by
      rw [← normChar_eq_padChar_iff, hnorm k hk, normChar_eq_padChar_iff]
    rw [padAt, padAt, ← hlen, Bool.eq_iff_iff]
    simp only [Bool.and_eq_true, beq_iff_eq, hpad]
  · have hk' : ¬ k < s'.clen.toNat := hlen ▸ hk
    rw [padAt, padAt, decide_eq_false hk, decide_eq_false hk', Bool.false_and, Bool.false_and]

theorem adjustedZoom_eq_of_normChar_eq : adjustedZoom s = adjustedZoom s' := by
  funext n z
  rw [adjustedZoom, padAt_eq_of_normChar_eq hlen hnorm, adjustedZoom]

end spellings

/-- Settles O51: the decoder sees a string through its digits and its pads, and both spellings have the same. -/
theorem legacyCharacterDecodesAlike : Obligations.LegacyCharacterDecodesAlike := by
  intro s s' t t' he he' hlen hnorm hrun hrun'
  have hdigit : ∀ k < s.clen.toNat, charDigit (s.cbuf.cellAt k) = charDigit (s'.cbuf.cellAt k) :=
    fun k hk => congrArg decChar (hnorm k hk)
  obtain ⟨n, hn⟩ := exists_digitPart s
  obtain ⟨u, hu, hdec⟩ := exec_dec_accumulated he hn
  obtain ⟨u', hu', hdec'⟩ := exec_dec_accumulated he' (digitPart_congr hlen hdigit hn)
  obtain ⟨hx, hy, hi, hzoom⟩ := hu.registers_eq hu' fun j hj => hdigit j (hj.trans_le hn.1)
  obtain rfl := Host.Outcome.next.inj (hdec.symm.trans hrun)
  obtain rfl := Host.Outcome.next.inj (hdec'.symm.trans hrun')
  refine ⟨hx, hy, hi, ?_, ?_, ?_, hu.cbuf, hu'.cbuf⟩
  · rw [State.withZoom_zoom, State.withZoom_zoom, hzoom, adjustedZoom_eq_of_normChar_eq hlen hnorm]
  · show patternOf (dequant u.x n 180 90) = patternOf (dequant u'.x n 180 90)
    rw [hx]
  · show patternOf (dequant u.y n 90 45) = patternOf (dequant u'.y n 90 45)
    rw [hy]

end Sys2Proof.Machine
end

section
/-! The encoder's commands that are no sequences: `LEN`, `EIN`, `EMIT` and `PADC` (44_encoder.md R160 to R168). -/

namespace Sys2Proof.Machine

/-! ### `LEN` and `EIN` -/

theorem zoomLegal_eq_false_iff (z : ℤ) : zoomLegal z = false ↔ z < -8 ∨ 22 < z := by
  rw [← Bool.not_eq_true, zoomLegal_iff, not_and_or, not_le, not_le]

/-- `LEN` at a zoom that is not legal (R162, R223). -/
theorem execLen_of_not_legal {s : State} (he : s.err = 0) (hz : zoomLegal (zoomLevel s) = false) :
    execLen s = .next (s.withErr (FaultCode.code .zoom)) := by
  rw [execLen, whenRunning_running he, hz, if_neg Bool.false_ne_true, raise_running he]

/-- Settles O30: at a legal zoom both counts fit their registers. -/
theorem lengthCommand : Obligations.LengthCommand := by
  refine ⟨rfl, fun s he => ⟨fun hz hz' => ?_, fun hz => ?_⟩⟩
  · have hlegal : zoomLegal (zoomLevel s) = true := (zoomLegal_iff _).2 ⟨hz, hz'⟩
    refine ⟨_, execLen_of_legal he hlegal, rfl, ?_, ?_⟩
    · rw [State.withCounts_nd, toNat_ofNat_ndigits hlegal]
      exact ndigits_eq_ceil hz
    · rw [State.withCounts_np, toNat_ofNat_npads]
      exact npads_eq_mod _
  · exact execLen_of_not_legal he ((zoomLegal_eq_false_iff _).2 hz)

/-- Settles O31: what `EIN` does on a running core. -/
theorem encoderInitCommand : Obligations.EncoderInitCommand := ⟨rfl, fun _ he => execEin_running he⟩

/-! ### `EMIT` and `PADC` -/

/-- Appending a character at an index the buffer has: the character goes to cell `I` and to no other, `I` and `CLEN`
become `I + 1`, and no other register changes (R166, R168). -/
theorem appendChar_effect {s : State} (hwf : s.cbuf.wf = true) (hi : s.i.toNat < Config.cap) (c : Byte) :
    ∃ t, appendChar c s = .next t ∧ t = { s with cbuf := t.cbuf, i := s.i + 1, clen := s.i + 1 } ∧
      t.i.toNat = s.i.toNat + 1 ∧ t.cbuf.cellAt s.i.toNat = c ∧
      ∀ k, k ≠ s.i.toNat → t.cbuf.cellAt k = s.cbuf.cellAt k := by
  refine ⟨_, appendChar_of_lt hi c, rfl, (appended_one (c := fun _ => c) hi).index, ?_, fun k hk => ?_⟩
  · exact (Memory.cellAt_put hwf _ c _).trans (if_pos rfl)
  · exact (Memory.cellAt_put hwf _ c _).trans (if_neg hk)

theorem execEmit_of_owed {s : State} (he : s.err = 0) (howed : digitsOwed s = true) :
    execEmit s = appendChar (encDigit (nextDigit s)) s := by
  rw [execEmit, whenRunning_running he, if_pos howed]

theorem execEmit_of_not_owed {s : State} (he : s.err = 0) (howed : digitsOwed s = false) :
    execEmit s = .next (s.withErr (FaultCode.code .seq)) := by
  rw [execEmit, whenRunning_running he, howed, if_neg Bool.false_ne_true, raise_running he]

/-- Settles O33: a digit owed is appended, at an index below `ND` and so one that the buffer has. -/
theorem emitCommand : Obligations.EmitCommand := by
  refine ⟨rfl, fun s he hwf _ => ⟨fun hi => ?_, fun hi => ?_⟩⟩
  · have howed : digitsOwed s = true := decide_eq_true hi
    obtain ⟨t, happend, heffect⟩ := appendChar_effect hwf (digitsOwed_lt_cap howed) (encDigit (nextDigit s))
    exact ⟨t, (execEmit_of_owed he howed).trans happend, heffect⟩
  · exact execEmit_of_not_owed he (decide_eq_false hi.not_gt)

/-- A pad is owed: the digits are out and the pads are not (R168). -/
def padOwed (s : State) : Bool := !digitsOwed s && charsOwed s

theorem padOwed_iff (s : State) :
    padOwed s = true ↔ s.nd.toNat ≤ s.i.toNat ∧ s.i.toNat < s.nd.toNat + s.np.toNat := by
  simp [padOwed, digitsOwed, charsOwed]

theorem execPadc_of_owed {s : State} (he : s.err = 0) (howed : padOwed s = true) :
    execPadc s = appendChar Config.padChar s := by
  rw [execPadc, whenRunning_running he]
  exact if_pos howed

theorem execPadc_of_not_owed {s : State} (he : s.err = 0) (howed : ¬ padOwed s = true) :
    execPadc s = .next (s.withErr (FaultCode.code .seq)) := by
  rw [execPadc, whenRunning_running he, raise_running he]
  exact if_neg howed

/-- Settles O34: a pad owed is appended, at an index below 12. -/
theorem padCommand : Obligations.PadCommand := by
  refine ⟨rfl, fun s he hwf hfit => ⟨fun hnd hi => ?_, fun hi => ?_⟩⟩
  · have hcap : s.i.toNat < Config.cap := (hi.trans_le hfit).trans (by decide)
    obtain ⟨t, happend, heffect⟩ := appendChar_effect hwf hcap Config.padChar
    exact ⟨t, (execPadc_of_owed he ((padOwed_iff s).2 ⟨hnd, hi⟩)).trans happend, heffect⟩
  · exact execPadc_of_not_owed he fun howed => by have := (padOwed_iff s).1 howed; omega

end Sys2Proof.Machine
end

section
/-! `ENC` as a whole (44_encoder.md R165 to R173): how it faults, and what it leaves when it does not, its string
decoded again included (45_decoder.md R201, R204). -/

namespace Sys2Proof.Machine

/-! ### Faults -/

/-- `ENC` at a zoom that is not legal ends at its `LEN`, the point and its tiers written (R227). -/
theorem exec_enc_of_not_legal {s : State} {qx qy : BitVec 32} (he : s.err = 0) (hx : quantLon s = some qx)
    (hy : quantLat s = some qy) (hz : zoomLegal (zoomLevel s) = false) :
    exec .enc s = .next (((s.withPoint (qx.setWidth 45) (qy.setWidth 45)).withTiers
      (interleave (hiOperand (qx.setWidth 45)) (hiOperand (qy.setWidth 45)))
      (interleave (loOperand (qx.setWidth 45)) (loOperand (qy.setWidth 45)))).withErr (FaultCode.code .zoom)) := by
  show execEnc s = _
  rw [execEnc, whenRunning_running he, execQnt_of_quantized he hx hy, andThen_of_running, execMrt_running,
    andThen_of_running, execLen_of_not_legal, andThen_of_faulted]
  case hz => exact hz
  · rfl
  · exact FaultCode.code_ne_zero .zoom
  all_goals exact he

/-- Settles O36: `ENC` ends at its `QNT`, or at its `LEN` with what `QNT` and `MRT` wrote. -/
theorem encodeFaults : Obligations.EncodeFaults := by
  refine fun s he => ⟨exec_enc_of_rejected he, fun qx qy hx hy hz => ?_⟩
  rw [exec_enc_of_not_legal he hx hy ((zoomLegal_eq_false_iff _).2 hz), hiOperand_setWidth, hiOperand_setWidth,
    loOperand_setWidth, loOperand_setWidth]
  rfl

/-! ### What `ENC` leaves when it raises no fault -/

/-- `t` is what `ENC` leaves of `s` at a legal zoom, for the point `qx`, `qy` (R170). -/
structure Encoded (s : State) (qx qy : BitVec 32) (t : State) : Prop where
  frame : t = { s with x := t.x, y := t.y, c1 := t.c1, c2 := t.c2, nd := t.nd, np := t.np, i := t.i, clen := t.clen,
                       cbuf := t.cbuf }
  x : t.x = qx.setWidth 45
  y : t.y = qy.setWidth 45
  c1 : t.c1 = interleave (hiOperand t.x) (hiOperand t.y)
  c2 : t.c2 = interleave (loOperand t.x) (loOperand t.y)
  nd : t.nd.toNat = ndigits (zoomLevel s)
  np : t.np.toNat = npads (zoomLevel s)
  index : t.i = t.clen
  length : t.clen.toNat = t.nd.toNat + t.np.toNat
  wf : t.cbuf.wf = true
  digits : ∀ k < t.nd.toNat, t.cbuf.cellAt k = digitChar t.c1 t.c2 k
  pads : ∀ k, t.nd.toNat ≤ k → k < t.clen.toNat → t.cbuf.cellAt k = Config.padChar
  rest : ∀ k, t.clen.toNat ≤ k → t.cbuf.cellAt k = s.cbuf.cellAt k

section Encoded
variable {s s' t t' : State} {qx qy : BitVec 32}

theorem Encoded.lat (h : Encoded s qx qy t) : t.lat = s.lat := (congrArg State.lat h.frame :)
theorem Encoded.lon (h : Encoded s qx qy t) : t.lon = s.lon := (congrArg State.lon h.frame :)
theorem Encoded.zoom (h : Encoded s qx qy t) : t.zoom = s.zoom := (congrArg State.zoom h.frame :)
theorem Encoded.err (h : Encoded s qx qy t) : t.err = s.err := (congrArg State.err h.frame :)

/-- On the legal domain `ENC` leaves such a state. -/
theorem exec_enc_encoded (he : s.err = 0) (hwf : s.cbuf.wf = true) (hx : quantLon s = some qx)
    (hy : quantLat s = some qy) (hz : zoomLegal (zoomLevel s) = true) :
    ∃ t, exec .enc s = .next t ∧ Encoded s qx qy t := by
  obtain ⟨hlow, hhigh⟩ := (zoomLegal_iff _).1 hz
  obtain ⟨t, hrun, hframe, hnd, hnp, hindex, hlength, hdigits, hpads, hrest⟩ :=
    encodeCommand.2 s qx qy he hwf hx hy hlow hhigh
  obtain ⟨v, t', hrun', hv, ht'⟩ := exec_enc_appended he hx hy hz
  obtain rfl := Host.Outcome.next.inj (hrun.symm.trans hrun')
  have hx : t.x = qx.setWidth 45 := (congrArg State.x hframe :)
  have hy : t.y = qy.setWidth 45 := (congrArg State.y hframe :)
  refine ⟨t, hrun, ?_, hx, hy, ?_, ?_, ?_, ?_, hindex, hlength, ht'.wf (hv.wf hwf), hdigits, hpads, hrest⟩
  · rw [hframe]
  · rw [hx, hy, hiOperand_setWidth, hiOperand_setWidth]; exact (congrArg State.c1 hframe :)
  · rw [hx, hy, loOperand_setWidth, loOperand_setWidth]; exact (congrArg State.c2 hframe :)
  · rw [← Nat.cast_inj (R := ℤ), hnd]; exact (ndigits_eq_ceil hlow).symm
  · rw [← Nat.cast_inj (R := ℤ), hnp]; exact (npads_eq_mod _).symm

/-- If `ENC` raised no fault, its state is such a state, for the point that the quantizer gave. -/
theorem encoded_of_exec_enc (he : s.err = 0) (hwf : s.cbuf.wf = true) (h : exec .enc s = .next t) (ht : t.err = 0) :
    ∃ qx qy, quantLon s = some qx ∧ quantLat s = some qy ∧ zoomLegal (zoomLevel s) = true ∧ Encoded s qx qy t := by
  obtain ⟨⟨qx, qy, hx, hy⟩, hz⟩ := quantized_of_exec_enc he h ht
  obtain ⟨t', hrun, ht'⟩ := exec_enc_encoded he hwf hx hy hz
  obtain rfl := Host.Outcome.next.inj (hrun.symm.trans h)
  exact ⟨qx, qy, hx, hy, hz, ht'⟩

/-- The registers that `ENC` writes hold a function of the point and the zoom. -/
theorem Encoded.registers_eq (h : Encoded s qx qy t) (h' : Encoded s' qx qy t') (hzoom : s.zoom = s'.zoom) :
    t'.x = t.x ∧ t'.y = t.y ∧ t'.c1 = t.c1 ∧ t'.c2 = t.c2 ∧ t'.nd = t.nd ∧ t'.np = t.np ∧ t'.i = t.i ∧
      t'.clen = t.clen := by
  have hx : t'.x = t.x := h'.x.trans h.x.symm
  have hy : t'.y = t.y := h'.y.trans h.y.symm
  have hnd : t'.nd = t.nd := BitVec.eq_of_toNat_eq (by rw [h'.nd, h.nd, zoomLevel, zoomLevel, hzoom])
  have hnp : t'.np = t.np := BitVec.eq_of_toNat_eq (by rw [h'.np, h.np, zoomLevel, zoomLevel, hzoom])
  have hclen : t'.clen = t.clen := BitVec.eq_of_toNat_eq (by rw [h'.length, h.length, hnd, hnp])
  refine ⟨hx, hy, ?_, ?_, hnd, hnp, ?_, hclen⟩
  · rw [h'.c1, h.c1, hx, hy]
  · rw [h'.c2, h.c2, hx, hy]
  · rw [h'.index, h.index, hclen]

/-- The digits that two encodings of one point both have are the same. -/
theorem Encoded.digits_eq (h : Encoded s qx qy t) (h' : Encoded s' qx qy t') {k : ℕ} (hk : k < t.nd.toNat)
    (hk' : k < t'.nd.toNat) : t'.cbuf.cellAt k = t.cbuf.cellAt k := by
  rw [h'.digits k hk', h.digits k hk, h'.c1, h'.c2, h.c1, h.c2, h'.x, h'.y, h.x, h.y]

/-- The characters of the string are a function of the point and the zoom. -/
theorem Encoded.chars_eq (h : Encoded s qx qy t) (h' : Encoded s' qx qy t') (hzoom : s.zoom = s'.zoom) {k : ℕ}
    (hk : k < t.clen.toNat) : t'.cbuf.cellAt k = t.cbuf.cellAt k := by
  obtain ⟨-, -, -, -, hnd, -, -, hclen⟩ := h.registers_eq h' hzoom
  by_cases hdigit : k < t.nd.toNat
  · exact h.digits_eq h' hdigit (hnd ▸ hdigit)
  · have hpad : t.nd.toNat ≤ k := not_lt.1 hdigit
    rw [h.pads k hpad hk, h'.pads k (hnd ▸ hpad) (hclen ▸ hk)]

/-- A second `ENC` writes every register and every cell as the first left it. -/
theorem Encoded.eq_of_encoded_again (h : Encoded s qx qy t) (h' : Encoded t qx qy t') : t' = t := by
  obtain ⟨hx, hy, hc1, hc2, hnd, hnp, hi, hclen⟩ := h.registers_eq h' h.zoom.symm
  have hcbuf : t'.cbuf = t.cbuf := by
    refine Memory.wf_ext h'.wf h.wf fun k => ?_
    by_cases hk : k < t.clen.toNat
    · exact h.chars_eq h' h.zoom.symm hk
    · exact h'.rest k (hclen ▸ not_lt.1 hk)
  rw [h'.frame, hx, hy, hc1, hc2, hnd, hnp, hi, hclen, hcbuf]

end Encoded

/-! ### The string and what it depends on -/

/-- Settles O38: the string is `ND` alphabet characters and then `NP` pads, and neither is `@`. -/
theorem shortCodeShape : Obligations.ShortCodeShape := by
  intro s t he hwf henc ht
  obtain ⟨qx, qy, -, -, hz, h⟩ := encoded_of_exec_enc he hwf henc ht
  have hlow : -8 ≤ s.zoom.toInt := ((zoomLegal_iff _).1 hz).1
  refine ⟨?_, fun k hk => ⟨_, h.digits k hk⟩, h.pads, fun c hc => ?_⟩
  · rw [h.length, h.nd, h.np, zoomLevel, Nat.cast_add, ndigits_eq_ceil hlow, npads_eq_mod]
  · obtain ⟨k, hk, rfl⟩ := List.mem_map.1 hc
    by_cases hdigit : k < t.nd.toNat
    · rw [h.digits k hdigit]
      exact encDigit_ne_of_decChar_none rfl _
    · rw [h.pads k (not_lt.1 hdigit) (List.mem_range.1 hk)]
      decide

/-- Settles O39: what `ENC` leaves is determined by the point and the zoom, in the registers and in the string; and
beyond the string a second `ENC` leaves what the first left. -/
theorem encodeDependsOnInputsOnly : Obligations.EncodeDependsOnInputsOnly := by
  constructor
  · intro s s' t t' he he' hwf hwf' hlat hlon hzoom henc ht henc'
    obtain ⟨qx, qy, hx, hy, hz, h⟩ := encoded_of_exec_enc he hwf henc ht
    rw [quantLon, hlon] at hx
    rw [quantLat, hlat] at hy
    rw [zoomLevel, hzoom] at hz
    obtain ⟨u, hrun, h'⟩ := exec_enc_encoded he' hwf' hx hy hz
    obtain rfl := Host.Outcome.next.inj (hrun.symm.trans henc')
    obtain ⟨hx, hy, hc1, hc2, hnd, hnp, hi, hclen⟩ := h.registers_eq h' hzoom
    refine ⟨h'.err.trans he', hx, hy, hc1, hc2, hnd, hnp, hi, hclen, ?_⟩
    rw [codeString, codeString, hclen]
    exact List.map_congr_left fun k hk => h.chars_eq h' hzoom (List.mem_range.1 hk)
  · intro s t he hwf henc ht
    obtain ⟨qx, qy, hx, hy, hz, h⟩ := encoded_of_exec_enc he hwf henc ht
    rw [quantLon, ← h.lon] at hx
    rw [quantLat, ← h.lat] at hy
    rw [zoomLevel, ← h.zoom] at hz
    obtain ⟨u, hrun, h'⟩ := exec_enc_encoded ht h.wf hx hy hz
    rw [hrun, h.eq_of_encoded_again h']

theorem ndigits_mono {z z' : ℤ} (h : z ≤ z') : ndigits z ≤ ndigits z' := by
  rw [ndigits, ndigits, Config.zoomBias]; omega

/-- Settles O40: both strings start with the digits of one point. -/
theorem lowerZoomDigitsComeFirst : Obligations.LowerZoomDigitsComeFirst := by
  intro s s' t t' he he' hwf hwf' hlat hlon hzoom henc ht henc' ht'
  obtain ⟨qx, qy, hx, hy, -, h⟩ := encoded_of_exec_enc he hwf henc ht
  obtain ⟨qx', qy', hx', hy', -, h'⟩ := encoded_of_exec_enc he' hwf' henc' ht'
  rw [quantLon, ← hlon] at hx'
  rw [quantLat, ← hlat] at hy'
  obtain rfl := Option.some.inj (hx.symm.trans hx')
  obtain rfl := Option.some.inj (hy.symm.trans hy')
  have hle : t.nd.toNat ≤ t'.nd.toNat := by rw [h.nd, h'.nd]; exact ndigits_mono hzoom
  exact ⟨hle, fun k hk => (h.digits_eq h' hk (hk.trans_le hle)).symm⟩

/-! ### The string decoded again -/

/-- From `ND` on the string has `NP` pads. -/
theorem Encoded.padAt_nd_add {s t : State} {qx qy : BitVec 32} (h : Encoded s qx qy t) (j : ℕ) :
    padAt t (t.nd.toNat + j) = decide (j < t.np.toNat) := by
  have hlength := h.length
  by_cases hj : j < t.np.toNat
  · have hpad := h.pads (t.nd.toNat + j) (by omega) (by omega)
    rw [padAt, hpad, decide_eq_true (by omega), decide_eq_true hj]; rfl
  · rw [padAt, decide_eq_false (by omega), decide_eq_false hj, Bool.false_and]

/-- The pads make up for the rounding in the digit count, so that the decoded zoom is the encoded one (R204). -/
theorem Encoded.zoom_recovered {s t : State} {qx qy : BitVec 32} (h : Encoded s qx qy t) (hz : -8 ≤ s.zoom.toInt) :
    3 * (t.nd.toNat : ℤ) - 8 + padAdjust t t.nd.toNat = s.zoom.toInt := by
  have hfirst : padAt t t.nd.toNat = decide (0 < t.np.toNat) := h.padAt_nd_add 0
  rw [padAdjust, hfirst, h.padAt_nd_add 1, h.nd, h.np, ndigits, npads, zoomLevel, Config.zoomBias]
  simp only [decide_eq_true_eq]
  split_ifs <;> omega

/-- Settles O52: the digit part is the `ND` characters of the point, whose groups in base 8 are the point truncated,
and the pads give the zoom back. -/
theorem roundTripTruncates : Obligations.RoundTripTruncates := by
  intro s t he hwf henc ht
  obtain ⟨qx, qy, hx, hy, hz, h⟩ := encoded_of_exec_enc he hwf henc ht
  obtain ⟨qx', qy', hx', hy', -, hnd, hpart, hgroups⟩ := digits_of_exec_enc he hwf henc ht
  obtain rfl := Option.some.inj (hx.symm.trans hx')
  obtain rfl := Option.some.inj (hy.symm.trans hy')
  obtain ⟨u, hdec, hframe, hi, hux, huy, -, -, -, -, hzoom⟩ := decodeClosedForm.2 t _ ht hpart
  refine ⟨u, hdec, BitVec.eq_of_toNat_eq hi, ?_, ?_, BitVec.eq_of_toInt_eq ?_, (congrArg State.cbuf hframe :),
    (congrArg State.clen hframe :)⟩
  · rw [h.x, BitVec.toNat_setWidth_of_le (by decide)]
    exact hux.trans (octal_eq_div qx.isLt hnd fun j hj => (hgroups j hj).1)
  · rw [h.y, BitVec.toNat_setWidth_of_le (by decide)]
    exact huy.trans (octal_eq_div qy.isLt hnd fun j hj => (hgroups j hj).2)
  · rw [hzoom, h.zoom_recovered ((zoomLegal_iff _).1 hz).1]

end Sys2Proof.Machine
end

section
/-! The decoder's commands one by one, the end of its loop, and what of the string `DEC` reads (45_decoder.md R190 to
R200). -/

namespace Sys2Proof.Machine

/-! ### `DIN` and `fold` -/

/-- Settles O43: what `DIN` does on a running core. -/
theorem decoderInitCommand : Obligations.DecoderInitCommand := ⟨rfl, fun _ he => execDin_running he⟩

/-- Folding is the shift and the OR on numbers, cut to the register (R191). -/
theorem fold_toNat_mod (a : Grid) (g : Group) : (fold a g).toNat = (a.toNat <<< 3 ||| g.toNat) % 2 ^ 45 := by
  rw [fold, BitVec.toNat_or, BitVec.toNat_shiftLeft, BitVec.toNat_setWidth, Nat.or_mod_two_pow]

/-- Settles O44: a group fills the three bits that the shift cleared. -/
theorem foldShiftsInThreeBits : Obligations.FoldShiftsInThreeBits := by
  refine fun a g => ⟨fold_toNat_mod a g, ?_, fold_toNat g⟩
  rw [← Nat.shiftLeft_add_eq_or_of_lt g.isLt, Nat.shiftLeft_eq, mul_comm]

/-! ### `ACC` -/

theorem hasCharAt_zero_iff (s : State) : hasCharAt s 0 = true ↔ s.i.toNat < s.clen.toNat := by simp [hasCharAt]

section acc
variable {s : State} (he : s.err = 0)
include he

/-- `ACC` on a stopped decoder or past the end of the string (R192). -/
theorem execAcc_of_end (hend : s.stop = true ∨ hasCharAt s 0 = false) : execAcc s = .next (s.withStop true) := by
  rw [execAcc, whenRunning_running he, if_pos (by simpa using hend)]

/-- `ACC` at a byte that is no digit (R192). -/
theorem execAcc_of_not_digit (hstop : s.stop = false) (hchar : hasCharAt s 0 = true)
    (hnone : charDigit (s.cbuf.cellAt s.i.toNat) = none) : execAcc s = .next (s.withStop true) := by
  rw [execAcc, whenRunning_running he, if_neg (by simp [hstop, hchar]), memRead_index_of_hasCharAt hchar, hnone]

/-- `ACC` at a digit (R192). -/
theorem execAcc_of_digit {d : Digit} (hstop : s.stop = false) (hchar : hasCharAt s 0 = true)
    (hd : charDigit (s.cbuf.cellAt s.i.toNat) = some d) : execAcc s = .next (foldDigit d s) := by
  rw [execAcc, whenRunning_running he, if_neg (by simp [hstop, hchar]), memRead_index_of_hasCharAt hchar, hd]

end acc

/-- Settles O45: `ACC` at the end, at a byte that is no digit, and at a digit. -/
theorem accumulateCommand : Obligations.AccumulateCommand := by
  refine ⟨rfl, fun s he => ⟨fun hend => ?_, fun hstop hi hnone => ?_, fun d hstop hi hd => ?_⟩⟩
  · refine execAcc_of_end he (hend.imp_right fun hi => ?_)
    rw [← Bool.not_eq_true, hasCharAt_zero_iff]
    exact hi.not_gt
  · exact execAcc_of_not_digit he hstop ((hasCharAt_zero_iff s).2 hi) hnone
  · exact execAcc_of_digit he hstop ((hasCharAt_zero_iff s).2 hi) hd

/-! ### `ZADJ` -/

theorem padAt_iff (s : State) (k : ℕ) : padAt s k = true ↔ k < s.clen.toNat ∧ s.cbuf.cellAt k = 0x2D := by
  simp [padAt]

/-- Settles O46: no pad at `I`, one pad, and two. -/
theorem zoomAdjustCommand : Obligations.ZoomAdjustCommand := by
  refine ⟨rfl, fun s he => ?_⟩
  simp only [← padAt_iff]
  have hrun : exec .zadj s = _ := execZadj_running he
  refine ⟨fun hfirst => ?_, fun hfirst hsecond => ?_, fun hfirst hsecond => ?_⟩
  · rw [hrun, if_neg hfirst]
  · rw [hrun, if_pos hfirst, if_neg hsecond]; rfl
  · rw [hrun, if_pos hfirst, if_pos hsecond]; rfl

/-! ### The decode loop from any state -/

/-- `t` is what some turns of the decode loop leave of `s`: only the decoder's registers have changed, `I` has passed
digits of the string only, and a decoder stopped on the way stands where the digits end (R192, R193). -/
structure PassedDigits (s t : State) : Prop where
  frame : t = { s with x := t.x, y := t.y, zoom := t.zoom, i := t.i, stop := t.stop }
  start_le : s.i.toNat ≤ t.i.toNat
  digits : ∀ k, s.i.toNat ≤ k → k < t.i.toNat → k < s.clen.toNat ∧ charDigit (s.cbuf.cellAt k) ≠ none
  stopped : s.stop = false → t.stop = true → s.clen.toNat ≤ t.i.toNat ∨ charDigit (s.cbuf.cellAt t.i.toNat) = none

section PassedDigits
variable {s t u : State}

theorem PassedDigits.refl (s : State) : PassedDigits s s :=
  ⟨rfl, le_rfl, fun _ hk hk' => absurd hk' hk.not_gt, fun hgo hstop => absurd hstop (by simp [hgo])⟩

theorem PassedDigits.err (h : PassedDigits s t) : t.err = s.err := (congrArg State.err h.frame :)
theorem PassedDigits.clen (h : PassedDigits s t) : t.clen = s.clen := (congrArg State.clen h.frame :)
theorem PassedDigits.cbuf (h : PassedDigits s t) : t.cbuf = s.cbuf := (congrArg State.cbuf h.frame :)

/-- Stopping where the digits end. -/
theorem PassedDigits.withStop (h : PassedDigits s t)
    (hend : t.stop = true ∨ hasCharAt t 0 = false ∨ charDigit (t.cbuf.cellAt t.i.toNat) = none) :
    PassedDigits s (t.withStop true) := by
  refine ⟨by rw [h.frame]; rfl, h.start_le, h.digits, fun hgo _ => ?_⟩
  obtain hstop | hchar | hnone := hend
  · exact h.stopped hgo hstop
  · rw [← Bool.not_eq_true, hasCharAt_zero_iff, not_lt, h.clen] at hchar
    exact .inl hchar
  · exact .inr (h.cbuf ▸ hnone)

/-- Passing one digit more; below `CLEN` the index does not wrap. -/
theorem PassedDigits.foldDigit (h : PassedDigits s t) (hstop : t.stop = false) (hchar : hasCharAt t 0 = true)
    {d : Digit} (hd : charDigit (t.cbuf.cellAt t.i.toNat) = some d) : PassedDigits s (foldDigit d t) := by
  have hlt := (hasCharAt_zero_iff t).1 hchar
  have hi : (Machine.foldDigit d t).i.toNat = t.i.toNat + 1 := by
    have := t.clen.isLt
    rw [foldDigit_i]; bv_omega
  rw [h.clen] at hlt
  rw [h.cbuf] at hd
  refine ⟨by rw [Machine.foldDigit, h.frame]; rfl, hi ▸ h.start_le.trans (Nat.le_succ _), fun k hk hk' => ?_,
    fun _ hstopped => absurd hstopped (by simp [hstop])⟩
  obtain hpassed | rfl := Nat.lt_succ_iff_lt_or_eq.1 (hi ▸ hk')
  · exact h.digits k hk hpassed
  · exact ⟨hlt, by simp [hd]⟩

/-- Each `ACC` stops the decoder or passes one digit (R192). -/
theorem PassedDigits.exec_acc (h : PassedDigits s t) (hrun : exec .acc t = .next u) : PassedDigits s u := by
  obtain ⟨-, rfl⟩ | ⟨-, hend, rfl⟩ | ⟨-, hstop, hchar, d, hd, rfl⟩ := execAcc_next hrun
  · exact h
  · exact h.withStop hend
  · exact h.foldDigit hstop hchar hd

theorem stop_of_accTurns_eq_zero (h : accTurns t = 0) : t.stop = true :=
  Bool.of_not_eq_false fun hgo => (accTurns_pos (by simp [notStopped, hgo])).ne' h

/-- `m` turns of the decode loop, each taking one off the turns left (R193). -/
theorem exists_issue_accs (he : s.err = 0) (m : ℕ) :
    ∃ t, issue (List.replicate m .acc) s = .next t ∧ PassedDigits s t ∧ accTurns t ≤ accTurns s - m := by
  induction m with
  | zero => exact ⟨s, rfl, .refl s, le_rfl⟩
  | succ m ih =>
    obtain ⟨t, hrun, ht, hturns⟩ := ih
    obtain ⟨u, hlast⟩ : ∃ u, exec .acc t = .next u := completes_execAcc t
    have hu := ht.exec_acc hlast
    refine ⟨u, ?_, hu, ?_⟩
    · rw [List.replicate_succ', issue_append, hrun, andThen_of_running (ht.err.trans he), issue_singleton, hlast]
    · cases hgo : notStopped t with
      | true => have := accTurns_lt hgo hlast (hu.err.trans he); omega
      | false =>
        obtain rfl := Host.Outcome.next.inj ((exec_acc_stopped hgo).symm.trans hlast)
        have hstop : t.stop = true := by simpa [notStopped] using hgo
        simp [accTurns, hstop]

end PassedDigits

/-- Settles O47: at most `CLEN + 1` turns are left, so after as many the decoder is stopped. -/
theorem decodeLoopEnds : Obligations.DecodeLoopEnds := by
  intro s he
  obtain ⟨t, hrun, ht, hturns⟩ := exists_issue_accs he (s.clen.toNat + 1)
  have hbound : accTurns s ≤ s.clen.toNat + 1 := by rw [accTurns]; split <;> omega
  have hstop : t.stop = true := stop_of_accTurns_eq_zero (by omega)
  exact ⟨t, hrun, hstop, hstop ▸ ht.frame, ht.start_le, ht.digits, fun hgo => ht.stopped hgo hstop⟩

/-! ### What `DEC` reads -/

section reads
variable {s s' : State} {n : ℕ} (hlen : s.clen = s'.clen)
include hlen

/-- Where the digit part ends is said by the bytes of it and the byte after it. -/
theorem digitPart_of_cells_eq (hcells : ∀ k ≤ n, k < s.clen.toNat → s.cbuf.cellAt k = s'.cbuf.cellAt k)
    (hn : digitPart s n) : digitPart s' n := by
  obtain ⟨hle, hdigits, hend⟩ := hn
  refine ⟨hlen ▸ hle, fun j hj => hcells j hj.le (hj.trans_le hle) ▸ hdigits j hj, ?_⟩
  obtain hlt | heq := hle.lt_or_eq
  · exact .inr (hcells n le_rfl hlt ▸ hend.resolve_left hlt.ne)
  · exact .inl (hlen ▸ heq)

/-- A position of the string holds a pad or not whatever the other bytes are; one past its end holds none (R195). -/
theorem padAt_eq_of_cell_eq {k : ℕ} (hcell : k < s.clen.toNat → s.cbuf.cellAt k = s'.cbuf.cellAt k) :
    padAt s k = padAt s' k := by
  rw [Bool.eq_iff_iff, padAt_iff, padAt_iff, ← hlen]
  exact and_congr_right fun hk => by rw [hcell hk]

end reads

/-- Settles O50: the digits folded in and the two positions that `ZADJ` looks at are bytes below `n + 2`. -/
theorem decodeReadsOnlyItsString : Obligations.DecodeReadsOnlyItsString := by
  intro s s' t t' n he he' hlen hn hcells hrun hrun'
  have hn' : digitPart s' n := digitPart_of_cells_eq hlen (fun k hk => hcells k (by omega)) hn
  have hpad : ∀ k < n + 2, padAt s k = padAt s' k := fun k hk => padAt_eq_of_cell_eq hlen (hcells k hk)
  obtain ⟨u, hu, hdec⟩ := exec_dec_accumulated he hn
  obtain ⟨u', hu', hdec'⟩ := exec_dec_accumulated he' hn'
  obtain ⟨hx, hy, hi, hzoom⟩ := hu.registers_eq hu' fun j hj =>
    congrArg charDigit (hcells j (by omega) (hj.trans_le hn.1))
  obtain rfl := Host.Outcome.next.inj (hdec.symm.trans hrun)
  obtain rfl := Host.Outcome.next.inj (hdec'.symm.trans hrun')
  refine ⟨hx, hy, hi, ?_, ?_, ?_, ?_⟩
  · simp only [State.withZoom_stop, State.withCoord_stop, State.withStop_stop]
  · rw [State.withZoom_zoom, State.withZoom_zoom, hzoom, adjustedZoom, adjustedZoom, hpad n (by omega),
      hpad (n + 1) (by omega)]
  · show patternOf (dequant u.x n 180 90) = patternOf (dequant u'.x n 180 90)
    rw [hx]
  · show patternOf (dequant u.y n 90 45) = patternOf (dequant u'.y n 90 45)
    rw [hy]

end Sys2Proof.Machine
end

section
/-! Steps, the host's actions and the faults (60_exceptions.md): what a step and a host action do, what a command that
faults leaves, and what a faulted core still does. -/

namespace Sys2Proof.Machine

/-! ### Steps -/

/-- The word of a byte's own 8 bits is that byte (R70). -/
theorem wordOfBits_toNat (w : Byte) : wordOfBits 8 w.toNat = w := by
  rw [wordOfBits, Nat.mod_eq_of_lt w.isLt, BitVec.ofNat_toNat, BitVec.setWidth_eq]

/-- A step takes the next pending action off the list and does it (R258). -/
theorem step_of_pending {s : State} {a : HostAction} {rest : List HostAction} (h : s.host = a :: rest) :
    step s = runAction a (s.withHost rest) := by
  rw [step, h]

/-- A command word that names a command runs it. -/
theorem runAction_command_of_ok {w : Byte} {i : Instr} (h : decode w = .ok i) (s : State) :
    runAction (.command w) s = exec i s :=
  runWord_of_ok h s

/-- The command that `withFetchWord` puts in front is the one that the next step runs, on the state without it. -/
theorem step_withFetchWord (s : State) (i : Instr) : step (s.withFetchWord 8 (encode i).toNat) = exec i s := by
  rw [State.withFetchWord, wordOfBits_toNat, step_withHost_cons, runAction_command_of_ok (decode_encode i),
    State.withHost_self]

/-- Settles O4: a step does the pending action, and a command word's action runs the command it names. -/
theorem stepRunsDecodedCommand : Obligations.StepRunsDecodedCommand :=
  ⟨fun _ _ _ _ hpending hdecode => (step_of_pending hpending).trans (runAction_command_of_ok hdecode _),
    step_withFetchWord, fun _ _ _ hpending => step_of_pending hpending⟩

/-! ### Host actions -/

/-- A buffer write by the host reaches its cell and nothing else (R235). -/
theorem runAction_writeCbuf_effect {s : State} (hwf : s.cbuf.wf = true) (k : Fin 15) (c : Byte) :
    ∃ t, runAction (.writeCbuf k c) s = .next t ∧ t = { s with cbuf := t.cbuf } ∧
      t.cbuf.cellAt k = c ∧ ∀ j, j ≠ k.val → t.cbuf.cellAt j = s.cbuf.cellAt j := by
  refine ⟨_, runAction_writeCbuf k c s, rfl, ?_, fun j hj => ?_⟩
  · exact (Memory.cellAt_put hwf _ c _).trans (if_pos rfl)
  · exact (Memory.cellAt_put hwf _ c _).trans (if_neg hj)

/-- Settles O5: the register writes, the read and the reset are their rows of R235; the other rows, and the registers
that no row reaches, have their own lemmas. -/
theorem hostActionEffects : Obligations.HostActionEffects := by
  intro s hwf
  refine ⟨fun _ => rfl, fun _ => rfl, fun _ => rfl, fun _ => rfl, runAction_writeCbuf_effect hwf, fun _ => rfl,
    ?_, ?_, ?_⟩
  · exact fun _ _ hdecode => runAction_command_of_ok hdecode s
  · exact ⟨resetCore s, rfl, rfl⟩
  · exact fun _ _ hcmd hreset h => runAction_keeps_unwritable hcmd hreset h

/-! ### Raising a fault -/

/-- The commands that raise no fault leave `ERR` as it is (R221 to R224). -/
theorem exec_keeps_err {i : Instr} {s t : State} (hi : i ∉ [Instr.qnt, .len, .emit, .padc, .enc])
    (h : exec i s = .next t) : t.err = s.err := by
  obtain ⟨-, -, -, -, -, -, -, -, -, herr, -⟩ := registersWrittenByCommand i s t h
  exact herr hi

/-- On a running core a command other than the macro `ENC` leaves `ERR` 0, or has done nothing but raise a fault
(R225). -/
theorem exec_runs_or_raises {i : Instr} {s t : State} (hi : i ≠ .enc) (he : s.err = 0) (h : exec i s = .next t) :
    t.err = 0 ∨ ∃ f : FaultCode, t = s.withErr f.code := by
  cases i with
  | enc => exact absurd rfl hi
  | qnt =>
    obtain ⟨hne, -⟩ | ⟨-, -, -, -, -, rfl⟩ | ⟨-, -, rfl⟩ := execQnt_next h
    exacts [absurd he hne, .inl he, .inr ⟨.nonFinite, rfl⟩]
  | len =>
    obtain ⟨hne, -⟩ | ⟨-, -, rfl⟩ | ⟨-, -, rfl⟩ := execLen_next h
    exacts [absurd he hne, .inl he, .inr ⟨.zoom, rfl⟩]
  | emit =>
    obtain ⟨hne, -⟩ | ⟨-, -, -, rfl⟩ | ⟨-, -, rfl⟩ := execEmit_next h
    exacts [absurd he hne, .inl he, .inr ⟨.seq, rfl⟩]
  | padc =>
    obtain ⟨hne, -⟩ | ⟨-, -, -, rfl⟩ | ⟨-, -, rfl⟩ := execPadc_next h
    exacts [absurd he hne, .inl he, .inr ⟨.seq, rfl⟩]
  | dqn | mrt | ein | dec | din | acc | zadj => exact .inl ((exec_keeps_err (by decide) h).trans he)

/-- Settles O11: `raise` by whether `ERR` was 0, and a command that leaves `ERR` not 0 did nothing but raise. -/
theorem faultChangesOnlyErr : Obligations.FaultChangesOnlyErr := by
  refine ⟨fun f _ he => raise_running he f, fun f _ he => raise_faulted he f, ⟨rfl, rfl, rfl, rfl⟩, ?_⟩
  intro i s t hi he h ht
  obtain ⟨f, rfl⟩ := (exec_runs_or_raises hi he h).resolve_left ht
  rfl

/-! ### The faulted core -/

/-- A faulted core ignores every word, legal or illegal (R226). -/
theorem runWord_faulted {s : State} (he : s.err ≠ 0) (w : Byte) : runWord w s = .next s := by
  cases hw : decode w with
  | ok i => rw [runWord_of_ok hw, exec_faulted he]
  | error e => rw [runWord_of_error hw, raise_faulted he]

/-- No host action but reset changes `ERR` of a faulted core: a command is ignored, and the others do not reach it. -/
theorem runAction_keeps_err_of_faulted {a : HostAction} {s t : State} (he : s.err ≠ 0) (hreset : a ≠ .reset)
    (h : runAction a s = .next t) : t.err = s.err := by
  by_cases hcmd : ∀ w, a ≠ .command w
  · obtain ⟨-, -, -, -, -, -, -, -, herr⟩ := runAction_keeps_unwritable hcmd hreset h
    exact herr
  · obtain ⟨w, rfl⟩ := not_forall_not.1 hcmd
    rw [Host.Outcome.next.inj ((runWord_faulted he w).symm.trans h)]

/-- Settles O12: commands and words are ignored, and the other actions do what they do on a running core. -/
theorem faultedCoreWaitsForReset : Obligations.FaultedCoreWaitsForReset := by
  intro s he
  refine ⟨exec_faulted he, runWord_faulted he, fun _ => rfl, fun _ _ _ _ => ⟨rfl, rfl, rfl, rfl⟩, ?_, ?_, ?_⟩
  · exact fun k c => runAction_writeCbuf k c s
  · exact fun _ _ hreset h => runAction_keeps_err_of_faulted he hreset h
  · rintro t h
    obtain rfl := Host.Outcome.next.inj h
    rfl

/-! ### `E_NONFINITE` -/

/-- A point neither of whose coordinates is rejected has grid values (R222). -/
theorem exists_quantized {s : State} (h : ¬ (coordRejected s.lon 180 ∨ coordRejected s.lat 90)) :
    ∃ qx qy, quantLon s = some qx ∧ quantLat s = some qy := by
  rw [← quantLon_eq_none_iff, ← quantLat_eq_none_iff, not_or] at h
  obtain ⟨hlon, hlat⟩ := h
  obtain ⟨qx, hx⟩ := Option.ne_none_iff_exists'.1 hlon
  obtain ⟨qy, hy⟩ := Option.ne_none_iff_exists'.1 hlat
  exact ⟨qx, qy, hx, hy⟩

/-- Past its `QNT`, the one fault that `ENC` can raise is `E_ZOOM`, at a zoom that is not legal (R229). -/
theorem err_of_exec_enc_quantized {s t : State} {qx qy : BitVec 32} (he : s.err = 0) (hx : quantLon s = some qx)
    (hy : quantLat s = some qy) (h : exec .enc s = .next t) :
    t.err = if zoomLegal (zoomLevel s) then 0 else FaultCode.code .zoom := by
  cases hz : zoomLegal (zoomLevel s) with
  | true =>
    obtain ⟨v, u, hrun, hv, hu⟩ := exec_enc_appended he hx hy hz
    obtain rfl := Host.Outcome.next.inj (hrun.symm.trans h)
    exact hu.err.trans (hv.err.trans he)
  | false =>
    obtain rfl := Host.Outcome.next.inj ((exec_enc_of_not_legal he hx hy hz).symm.trans h)
    rfl

/-- Settles O17: a rejected coordinate ends both commands at the quantizer; otherwise `QNT` raises nothing, and `ENC`
nothing but `E_ZOOM`. -/
theorem nonFiniteFaultRaised : Obligations.NonFiniteFaultRaised := by
  intro s he
  obtain ⟨-, hqnt⟩ := quantizeCommand
  obtain ⟨-, hfault⟩ := hqnt s he
  refine ⟨fun hrejected => ⟨hfault hrejected, exec_enc_of_rejected he hrejected⟩, fun haccepted => ?_⟩
  obtain ⟨qx, qy, hx, hy⟩ := exists_quantized haccepted
  rintro t (hqnt | henc)
  · obtain rfl := Host.Outcome.next.inj ((execQnt_of_quantized he hx hy).symm.trans hqnt)
    rw [State.withPoint_err, he]
    decide
  · rw [err_of_exec_enc_quantized he hx hy henc]
    split <;> decide

end Sys2Proof.Machine
end

section
/-! Reset and hazards (70_reset_and_hazards.md): CORE between the host's actions. -/

namespace Sys2Proof.Machine

/-- Settles O7: of the two branches of `step` the one with nothing pending, which gives the state again. -/
theorem idleCoreKeepsItsState : Obligations.IdleCoreKeepsItsState := by
  intro s hidle
  rw [step, hidle]

end Sys2Proof.Machine
end
